-- ==== Sys2Proof/Word.lean ====
section
/-! DEFINITION. The word types of the block (00_scope.md R8, R9; widths of 10_state.md R24). -/

namespace Sys2Proof

/-- A byte (R9). -/
abbrev Byte := BitVec 8

/-- A byte sequence with its own length (R9). -/
abbrev Bytes := List (BitVec 8)

/-- `word1` and `word2` of a slot (R7 `WORD_BITS`). -/
abbrev Word := BitVec 32

/-- An arbitration id (R7 `ADDR_BITS`). -/
abbrev Address := BitVec 29

/-- A CAN slot: exactly 16 bytes, by its type (R80; R125: a shorter or longer one cannot be presented). -/
abbrev Slot := Vector (BitVec 8) 16

end Sys2Proof
end

