-- ==== Sys2Proof/Config.lean ====
section
/-! DEFINITION. The parameters of the block (00_scope.md R7): the values the spec fixes, the configuration fields
(10_state.md R28), and the endpoint identifiers the spec leaves open (20_memory.md R56). -/

namespace Sys2Proof

/-- R7 `SLOT_BYTES`. -/
abbrev Config.slotBytes : Nat := 16
/-- R7 `DATA_MAX`. -/
abbrev Config.dataMax : Nat := 8
/-- R7 `STD_LIMIT`: the smallest address encoded as extended. -/
abbrev Config.stdLimit : Nat := 0x800
/-- R7 `RX_MAX`: the bytes CANRECV asks for. -/
abbrev Config.rxMax : Nat := 4096
/-- R7 `CHUNK_MAX`. -/
abbrev Config.chunkMax : Nat := 15
/-- R7 `HDR_BYTES`. -/
abbrev Config.hdrBytes : Nat := 2

/-- The write direction's endpoints (R56): an endpoint names one direction of one channel. -/
inductive WriteEndpoint where
  /-- EP_CAN_TX -/
  | canTx
  /-- EP_KL_TX -/
  | klTx
deriving DecidableEq, Repr

/-- The read direction's endpoints (R56). -/
inductive ReadEndpoint where
  /-- EP_CAN_RX -/
  | canRx
  /-- EP_KL_RX(bus) -/
  | klRx (bus : Byte)
deriving DecidableEq, Repr

/-- The identifier handed to the transport for a write endpoint: OPEN in the spec (R7, R56, D7), so a constant
without a body, of which nothing can be proved. DESIGN CHOICE (the form), log entry 1. -/
opaque Config.writeEndpointId : WriteEndpoint → Nat

/-- The identifier handed to the transport for a read endpoint, EP_KL_RX a function of `bus` (R28): OPEN, as above. -/
opaque Config.readEndpointId : ReadEndpoint → Nat

/-- R7 `ECHO_POLICY`. -/
inductive EchoPolicy where
  | source
  | alwaysFatal
  | alwaysLogged
deriving DecidableEq, Repr

/-- R7 `RX_ERR_POLICY`. -/
inductive RxErrPolicy where
  | drop
  | abort
deriving DecidableEq, Repr

/-- The configuration fields of R28 and the two bounds of R7; `none` is `unbounded`. -/
structure Params where
  batch       : Bool
  retryLimit  : Option Nat
  echoPolicy  : EchoPolicy
  rxErrPolicy : RxErrPolicy
  klDrainMax  : Nat
  txFramesMax : Option Nat
  ksendMax    : Option Nat
deriving DecidableEq, Repr

/-- The legal values of R28: a bounded RETRY_LIMIT and KL_DRAIN_MAX are at least 1. -/
def Params.legal (p : Params) : Bool :=
  decide (1 ≤ p.klDrainMax) && decide (p.retryLimit ≠ some 0)

/-- The parameter values of `State.reset`. The defaults are R7's; BATCH and KL_DRAIN_MAX have none there and take the
start values of 95_test_vectors.md part 3: DESIGN CHOICE, log entry 2. -/
def Params.initial : Params where
  batch       := true
  retryLimit  := none
  echoPolicy  := .source
  rxErrPolicy := .drop
  klDrainMax  := 64
  txFramesMax := none
  ksendMax    := none

end Sys2Proof
end

