-- ==== Sys2Proof/Syntax.lean ====
section
/-! DEFINITION. The values of the block's data model (00_scope.md R14; 10_state.md R29; 60_exceptions.md R225) and the
one inductive of its instructions, one constructor per row of spec/opcode_table.json. -/

namespace Sys2Proof

/-- One outgoing frame of SENDMANY: (address, data, bus) (30_encoding.md R89). -/
structure TxFrame where
  address : Address
  data    : Bytes
  bus     : Byte
deriving DecidableEq, Repr

/-- A CanFrame (R14): what DECODE returns. It has no field for the form (R126). -/
structure CanFrame where
  address : Address
  data    : Bytes
  bus     : Byte
  counter : BitVec 16
deriving DecidableEq, Repr

/-- The error kinds, complete (R225). -/
inductive ErrorKind where
  | callerError
  | formatError
  | protocolError
  | connectionError
  | transientIOError
  | otherTransportError
deriving DecidableEq, Repr

/-- The result value of an operation that ends OK (10_state.md R29). -/
inductive Result where
  /-- SENDMANY and KSEND -/
  | nothing
  /-- ENCODE -/
  | slot (s : Slot)
  /-- DECODE -/
  | frame (f : CanFrame)
  /-- CANRECV: the frames and the count of dropped slots (41_bus_multiplexer.md R148) -/
  | frames (fs : List CanFrame) (dropped : Nat)
  /-- KRECV -/
  | message (m : Bytes)
deriving DecidableEq, Repr

/-- The response descriptor (30_encoding.md R90): a result only with OK, an error kind and nothing else otherwise (R29, R227). -/
inductive Response where
  | ok (r : Result)
  | error (k : ErrorKind)
deriving DecidableEq, Repr

/-- Who called RDEXACT, that is where its result goes (R34: KECHO, and KRECV for its header and its remainder).
DESIGN CHOICE (the form): log entry 11. -/
inductive RdCaller where
  | echo
  | header
  | body
deriving DecidableEq, Repr

/-- The instructions: one constructor per row of spec/opcode_table.json. -/
inductive Instr where
  /-- ENCODE, R120 -/
  | encode (address : Address) (data : Bytes) (bus : Byte)
  /-- DECODE, R125 -/
  | decode (slot : Slot)
  /-- SENDMANY, R140 -/
  | sendmany (frames : List TxFrame)
  /-- CANRECV, R145 -/
  | canrecv
  /-- KSEND, R175 -/
  | ksend (message : Bytes) (bus : Byte) (cs : Bool)
  /-- KRECV, R210 -/
  | krecv (bus : Byte)
  /-- reserved op 0x0, R102 -/
  | reservedOp0
  /-- reserved op 0x7, R102 -/
  | reservedOp7
  /-- reserved op 0x8, R102 -/
  | reservedOp8
  /-- reserved op 0x9, R102 -/
  | reservedOp9
  /-- reserved op 0xA, R102 -/
  | reservedOpA
  /-- reserved op 0xB, R102 -/
  | reservedOpB
  /-- reserved op 0xC, R102 -/
  | reservedOpC
  /-- reserved op 0xD, R102 -/
  | reservedOpD
  /-- reserved op 0xE, R102 -/
  | reservedOpE
  /-- reserved op 0xF, R102 -/
  | reservedOpF
  /-- WRRETRY, R161 -/
  | wrretry (ep : WriteEndpoint) (buf : Bytes)
  /-- RDRETRY, R162 -/
  | rdretry (ep : ReadEndpoint) (max : Nat)
  /-- KDRAIN, R176 -/
  | kdrain (bus : Byte)
  /-- KECHO, R196 -/
  | kecho (chunk : Bytes) (bus : Byte) (k : Nat) (final : Bool)
  /-- RDEXACT, R197 -/
  | rdexact (ep : ReadEndpoint) (n : Byte) (caller : RdCaller)
  /-- CANSLOT.W1.STD, R82: ID11, bits 20:3, bit 1, TRANSMIT -/
  | canslotW1Std (a : BitVec 11) (x : BitVec 18) (y t : BitVec 1)
  /-- CANSLOT.W1.EXT, R83: ID29, bit 1, TRANSMIT -/
  | canslotW1Ext (a : BitVec 29) (y t : BitVec 1)
  /-- CANSLOT.W1.STD.ENC, R121: address[10:0] -/
  | canslotW1StdEnc (a : BitVec 11)
  /-- CANSLOT.W1.EXT.ENC, R121: address[28:0] -/
  | canslotW1ExtEnc (a : BitVec 29)
  /-- CANSLOT.W2.LEN0_7, R84: COUNTER, bits 15:12, BUS, LENGTH[2:0] -/
  | canslotW2Len0to7 (c : BitVec 16) (x : BitVec 4) (b : Byte) (l : BitVec 3)
  /-- CANSLOT.W2.LEN8, R84 -/
  | canslotW2Len8 (c : BitVec 16) (x : BitVec 4) (b : Byte)
  /-- CANSLOT.W2.ILLEGAL_9, R98 -/
  | canslotW2Illegal9 (c : BitVec 16) (x : BitVec 4) (b : Byte)
  /-- CANSLOT.W2.ILLEGAL_10_11, R98 -/
  | canslotW2Illegal10to11 (c : BitVec 16) (x : BitVec 4) (b : Byte) (l : BitVec 1)
  /-- CANSLOT.W2.ILLEGAL_12_15, R98 -/
  | canslotW2Illegal12to15 (c : BitVec 16) (x : BitVec 4) (b : Byte) (l : BitVec 2)
  /-- CANSLOT.W2.ENC, R122: bus, len(data) -/
  | canslotW2Enc (b : Byte) (l : BitVec 4)
  /-- CANSLOT.PAYLOAD, R81, R123 -/
  | canslotPayload (data : Bytes)
  /-- KBUF, R85, R177 -/
  | kbuf (message : Bytes) (cs : Bool)
  /-- KCHUNK, R86, R179: selector byte and chunk -/
  | kchunk (b : Byte) (chunk : Bytes)
  /-- KRXMSG.HDR.LEGAL, R87, R213: header[0], header[1] -/
  | krxmsgHdrLegal (h n : Byte)
  /-- KRXMSG.HDR.ILLEGAL, R99, R212: header[0], low bit of header[1] -/
  | krxmsgHdrIllegal (h : Byte) (n : BitVec 1)
  /-- RSP, R90, R226 -/
  | rsp (r : Response)
deriving DecidableEq, Repr

end Sys2Proof
end

