-- ==== Sys2Proof/WellFormed.lean ====
section
/-! DEFINITION. Which terms of Instr are instructions of the block: the operand ranges the spec gives each row. -/

namespace Sys2Proof

/-- `DATA_MAX` holds of a received frame (00_scope.md R14). -/
def CanFrame.wellFormed (f : CanFrame) : Bool := decide (f.data.length ≤ Config.dataMax)

/-- The result values an operation can deliver (10_state.md R29): payloads of at most 8 bytes (R14), at most 256 slots
in one CANRECV (41_bus_multiplexer.md R146), a message of 2 to 255 bytes (45_serial_framer.md R215). -/
def Result.wellFormed : Result → Bool
  | .nothing => true
  | .slot _ => true
  | .frame f => f.wellFormed
  | .frames fs dropped => fs.all CanFrame.wellFormed && decide (fs.length + dropped ≤ 256)
  | .message m => decide (2 ≤ m.length) && decide (m.length ≤ 255)

def Response.wellFormed : Response → Bool
  | .ok r => r.wellFormed
  | .error _ => true

/-- A chunk has 1 to 15 bytes (30_encoding.md R86). -/
def chunkLegal (chunk : Bytes) : Bool :=
  decide (1 ≤ chunk.length) && decide (chunk.length ≤ Config.chunkMax)

/-- How many bytes each caller asks RDEXACT for (20_memory.md R61). -/
def RdCaller.admits : RdCaller → Byte → Bool
  | .echo, n => decide (1 ≤ n.toNat) && decide (n.toNat ≤ Config.chunkMax)
  | .header, n => decide (n.toNat = Config.hdrBytes)
  | .body, n => decide (n.toNat ≤ 253)

/-- The operand ranges. A payload longer than 8 bytes is a legal operand of ENCODE and SENDMANY: it is answered with
CallerError (R89, R246). -/
def Instr.wellFormed : Instr → Bool
  | .encode _ _ _ => true
  | .decode _ => true
  | .sendmany _ => true
  | .canrecv => true
  | .ksend _ _ _ => true
  | .krecv _ => true
  | .reservedOp0 => true
  | .reservedOp7 => true
  | .reservedOp8 => true
  | .reservedOp9 => true
  | .reservedOpA => true
  | .reservedOpB => true
  | .reservedOpC => true
  | .reservedOpD => true
  | .reservedOpE => true
  | .reservedOpF => true
  | .wrretry _ _ => true
  | .rdretry _ max => decide (1 ≤ max)
  | .kdrain _ => true
  | .kecho chunk _ _ _ => chunkLegal chunk
  | .rdexact _ n caller => caller.admits n
  | .canslotW1Std _ _ _ _ => true
  | .canslotW1Ext _ _ _ => true
  | .canslotW1StdEnc _ => true
  | .canslotW1ExtEnc _ => true
  | .canslotW2Len0to7 _ _ _ _ => true
  | .canslotW2Len8 _ _ _ => true
  | .canslotW2Illegal9 _ _ _ => true
  | .canslotW2Illegal10to11 _ _ _ _ => true
  | .canslotW2Illegal12to15 _ _ _ _ => true
  | .canslotW2Enc _ l => decide (l.toNat ≤ Config.dataMax)
  | .canslotPayload data => decide (data.length ≤ Config.dataMax)
  | .kbuf _ _ => true
  | .kchunk _ chunk => chunkLegal chunk
  | .krxmsgHdrLegal _ n => decide (2 ≤ n.toNat)
  | .krxmsgHdrIllegal _ _ => true
  | .rsp r => r.wellFormed

end Sys2Proof
end

