-- ==== Sys2Proof/Decode.lean ====
section
/-! DEFINITION. Decoding and encoding. A wire format is told by WHERE its bytes stand (30_encoding.md R80, R97), so both
work on a port and its bytes. The patterns are those of spec/opcode_table.json. The layout of a command's operands and of a
result value, which the spec does not fix (R89, R90), is the model's: DESIGN CHOICE, log entry 8. -/

namespace Sys2Proof

/-- Where encoded bytes stand: one port per `format` of the table whose rows have a bit pattern. -/
inductive Port where
  /-- the command descriptor, CMD -/
  | cmd
  /-- `word1` of a slot at the decoder -/
  | word1Rx
  /-- `word1` of a slot as ENCODE writes it -/
  | word1Tx
  /-- `word2` of a slot at the decoder -/
  | word2Rx
  /-- `word2` of a slot as ENCODE writes it -/
  | word2Tx
  /-- a kline chunk on the wire -/
  | kchunk
  /-- the first two bytes of a kline received message -/
  | krxHdr
  /-- the response descriptor, RSP -/
  | rsp
deriving DecidableEq, Repr

/-- Why bytes are no instruction. All are the model's own refusals and safe: the machine takes no step. -/
inductive Reject where
  /-- fewer bytes than the form has -/
  | truncated
  /-- the byte that carries `op` or STATUS has a bit above its 4 -/
  | nibbleField
  /-- an `address` of 2^29 or more (60_exceptions.md R234, D4) -/
  | addressOutOfRange
  /-- a sequence marker that is neither 0 nor 1 -/
  | badMarker
  /-- a `cs` byte that is neither 0 nor 1 -/
  | badFlag
  /-- a word outside the patterns of the image rows (30_encoding.md R101; log entry 23) -/
  | notAnEncodeImage
  /-- a kline chunk that is not 2 to 16 bytes on the wire (R86) -/
  | chunkSize
  /-- STATUS 0x7 to 0xF, not used (60_exceptions.md R226) -/
  | statusUnused
  /-- an unknown result tag -/
  | badResultTag
deriving DecidableEq, Repr

/-! ### Words and bytes -/

/-- LE32 (00_scope.md R10). -/
def le32 (w : Word) : Bytes :=
  [w.extractLsb' 0 8, w.extractLsb' 8 8, w.extractLsb' 16 8, w.extractLsb' 24 8]

/-- unLE32 (R10), the four bytes in sequence order. -/
def unLE32 (b0 b1 b2 b3 : Byte) : Word := b3 ++ b2 ++ b1 ++ b0

/-- CANSLOT.W1.STD: `aaaaaaaaaaaxxxxxxxxxxxxxxxxxx0yt`. -/
def word1StdBits (a : BitVec 11) (x : BitVec 18) (y t : BitVec 1) : Word := a ++ x ++ 0#1 ++ y ++ t

/-- CANSLOT.W1.EXT: 29 bits `a`, then `1yt`. -/
def word1ExtBits (a : BitVec 29) (y t : BitVec 1) : Word := a ++ 1#1 ++ y ++ t

/-- CANSLOT.W2.*: `c` (16), `x` (4), `b` (8), LENGTH (4). -/
def word2Bits (c : BitVec 16) (x : BitVec 4) (b : Byte) (l : BitVec 4) : Word := c ++ x ++ b ++ l

/-! ### Encoding -/

/-- A byte sequence that carries its own length: each byte after a 1, then a 0. -/
def encodeSeq : Bytes → Bytes
  | [] => [0]
  | b :: bs => 1 :: b :: encodeSeq bs

def encodeAddress (a : Address) : Bytes := le32 (a.setWidth 32)

def encodeTxFrame (f : TxFrame) : Bytes := encodeAddress f.address ++ [f.bus] ++ encodeSeq f.data

def encodeTxFrames : List TxFrame → Bytes
  | [] => [0]
  | f :: fs => 1 :: (encodeTxFrame f ++ encodeTxFrames fs)

def encodeCanFrame (f : CanFrame) : Bytes :=
  encodeAddress f.address ++ [f.bus, f.counter.extractLsb' 0 8, f.counter.extractLsb' 8 8] ++ encodeSeq f.data

def encodeCanFrames : List CanFrame → Bytes
  | [] => [0]
  | f :: fs => 1 :: (encodeCanFrame f ++ encodeCanFrames fs)

/-- A count: as many 1 as it says, then a 0. -/
def encodeCount : Nat → Bytes
  | 0 => [0]
  | n + 1 => 1 :: encodeCount n

def encodeFlag (b : Bool) : Byte := if b then 1 else 0

/-- STATUS codes (60_exceptions.md R226). -/
def ErrorKind.code : ErrorKind → BitVec 4
  | .callerError => 0x1
  | .formatError => 0x2
  | .protocolError => 0x3
  | .connectionError => 0x4
  | .transientIOError => 0x5
  | .otherTransportError => 0x6

def Response.status : Response → BitVec 4
  | .ok _ => 0x0
  | .error k => k.code

def encodeResult : Result → Bytes
  | .nothing => [0]
  | .slot s => 1 :: s.toList
  | .frame f => 2 :: encodeCanFrame f
  | .frames fs dropped => 3 :: (encodeCanFrames fs ++ encodeCount dropped)
  | .message m => 4 :: encodeSeq m

def encodeResponse (r : Response) : Bytes :=
  match r with
  | .ok v => (r.status.setWidth 8) :: encodeResult v
  | .error _ => [r.status.setWidth 8]

/-- The port and the bytes of an instruction. `none`: the table's encoding is "-", no bit pattern selects the row. -/
def encode : Instr → Option (Port × Bytes)
  | .encode address data bus => some (.cmd, 0x01 :: (encodeAddress address ++ [bus] ++ encodeSeq data))
  | .decode slot => some (.cmd, 0x02 :: slot.toList)
  | .sendmany frames => some (.cmd, 0x03 :: encodeTxFrames frames)
  | .canrecv => some (.cmd, [0x04])
  | .ksend message bus cs => some (.cmd, 0x05 :: bus :: encodeFlag cs :: encodeSeq message)
  | .krecv bus => some (.cmd, [0x06, bus])
  | .reservedOp0 => some (.cmd, [0x00])
  | .reservedOp7 => some (.cmd, [0x07])
  | .reservedOp8 => some (.cmd, [0x08])
  | .reservedOp9 => some (.cmd, [0x09])
  | .reservedOpA => some (.cmd, [0x0A])
  | .reservedOpB => some (.cmd, [0x0B])
  | .reservedOpC => some (.cmd, [0x0C])
  | .reservedOpD => some (.cmd, [0x0D])
  | .reservedOpE => some (.cmd, [0x0E])
  | .reservedOpF => some (.cmd, [0x0F])
  | .wrretry _ _ => none
  | .rdretry _ _ => none
  | .kdrain _ => none
  | .kecho _ _ _ _ => none
  | .rdexact _ _ _ => none
  | .canslotW1Std a x y t => some (.word1Rx, le32 (word1StdBits a x y t))
  | .canslotW1Ext a y t => some (.word1Rx, le32 (word1ExtBits a y t))
  | .canslotW1StdEnc a => some (.word1Tx, le32 (word1StdBits a 0 0 1))
  | .canslotW1ExtEnc a => some (.word1Tx, le32 (word1ExtBits a 0 1))
  | .canslotW2Len0to7 c x b l => some (.word2Rx, le32 (word2Bits c x b (0#1 ++ l)))
  | .canslotW2Len8 c x b => some (.word2Rx, le32 (word2Bits c x b 8))
  | .canslotW2Illegal9 c x b => some (.word2Rx, le32 (word2Bits c x b 9))
  | .canslotW2Illegal10to11 c x b l => some (.word2Rx, le32 (word2Bits c x b (5#3 ++ l)))
  | .canslotW2Illegal12to15 c x b l => some (.word2Rx, le32 (word2Bits c x b (3#2 ++ l)))
  | .canslotW2Enc b l => some (.word2Tx, le32 (word2Bits 0 0 b l))
  | .canslotPayload _ => none
  | .kbuf _ _ => none
  | .kchunk b chunk => some (.kchunk, b :: chunk)
  | .krxmsgHdrLegal h n => some (.krxHdr, [h, n])
  | .krxmsgHdrIllegal h n => some (.krxHdr, [h, n.setWidth 8])
  | .rsp r => some (.rsp, encodeResponse r)

/-! ### Decoding: each piece gives what it read and the bytes after it -/

def takeByte : Bytes → Except Reject (Byte × Bytes)
  | [] => .error .truncated
  | b :: rest => .ok (b, rest)

def takeWord : Bytes → Except Reject (Word × Bytes)
  | b0 :: b1 :: b2 :: b3 :: rest => .ok (unLE32 b0 b1 b2 b3, rest)
  | _ => .error .truncated

/-- An `address` operand: a word below 2^29 (R120, D4). -/
def takeAddress (bs : Bytes) : Except Reject (Address × Bytes) := do
  let (w, rest) ← takeWord bs
  if w.toNat < 2 ^ 29 then .ok (w.setWidth 29, rest) else .error .addressOutOfRange

def takeSeq : Bytes → Except Reject (Bytes × Bytes)
  | [] => .error .truncated
  | m :: rest =>
    if m = 0 then .ok ([], rest)
    else if m = 1 then
      match rest with
      | [] => .error .truncated
      | b :: rest' => do
        let (bs, rest'') ← takeSeq rest'
        .ok (b :: bs, rest'')
    else .error .badMarker

def takeTxFrame (bs : Bytes) : Except Reject (TxFrame × Bytes) := do
  let (address, bs) ← takeAddress bs
  let (bus, bs) ← takeByte bs
  let (data, bs) ← takeSeq bs
  .ok (⟨address, data, bus⟩, bs)

def takeCanFrame (bs : Bytes) : Except Reject (CanFrame × Bytes) := do
  let (address, bs) ← takeAddress bs
  let (bus, bs) ← takeByte bs
  let (c0, bs) ← takeByte bs
  let (c1, bs) ← takeByte bs
  let (data, bs) ← takeSeq bs
  .ok (⟨address, data, bus, c1 ++ c0⟩, bs)

/-- A marked sequence of items, read by `item`; the first argument bounds the number of markers. -/
def takeMany {α : Type} (item : Bytes → Except Reject (α × Bytes)) : Nat → Bytes → Except Reject (List α × Bytes)
  | 0, _ => .error .truncated
  | _ + 1, [] => .error .truncated
  | fuel + 1, m :: rest =>
    if m = 0 then .ok ([], rest)
    else if m = 1 then do
      let (a, rest') ← item rest
      let (as, rest'') ← takeMany item fuel rest'
      .ok (a :: as, rest'')
    else .error .badMarker

def takeCount : Bytes → Except Reject (Nat × Bytes)
  | [] => .error .truncated
  | m :: rest =>
    if m = 0 then .ok (0, rest)
    else if m = 1 then do
      let (n, rest') ← takeCount rest
      .ok (n + 1, rest')
    else .error .badMarker

def takeSlot : Bytes → Except Reject (Slot × Bytes)
  | b0 :: b1 :: b2 :: b3 :: b4 :: b5 :: b6 :: b7 :: b8 :: b9 :: b10 :: b11 :: b12 :: b13 :: b14 :: b15 :: rest =>
    .ok (#v[b0, b1, b2, b3, b4, b5, b6, b7, b8, b9, b10, b11, b12, b13, b14, b15], rest)
  | _ => .error .truncated

def takeFlag : Bytes → Except Reject (Bool × Bytes)
  | [] => .error .truncated
  | b :: rest => if b = 0 then .ok (false, rest) else if b = 1 then .ok (true, rest) else .error .badFlag

/-- A 4-bit selector in the low bits of a byte whose upper bits are 0 (R89, R90). -/
def takeNibble (bs : Bytes) : Except Reject (BitVec 4 × Bytes) := do
  let (b, rest) ← takeByte bs
  if b.extractLsb' 4 4 = 0 then .ok (b.extractLsb' 0 4, rest) else .error .nibbleField

/-- The operation map (R89, R97, R102). -/
def decodeCmd (bs : Bytes) : Except Reject (Instr × Bytes) := do
  let (op, bs) ← takeNibble bs
  match op.toNat with
  | 0x0 => .ok (.reservedOp0, bs)
  | 0x1 => do
    let (f, bs) ← takeTxFrame bs
    .ok (.encode f.address f.data f.bus, bs)
  | 0x2 => do
    let (slot, bs) ← takeSlot bs
    .ok (.decode slot, bs)
  | 0x3 => do
    let (frames, bs) ← takeMany takeTxFrame bs.length bs
    .ok (.sendmany frames, bs)
  | 0x4 => .ok (.canrecv, bs)
  | 0x5 => do
    let (bus, bs) ← takeByte bs
    let (cs, bs) ← takeFlag bs
    let (message, bs) ← takeSeq bs
    .ok (.ksend message bus cs, bs)
  | 0x6 => do
    let (bus, bs) ← takeByte bs
    .ok (.krecv bus, bs)
  | 0x7 => .ok (.reservedOp7, bs)
  | 0x8 => .ok (.reservedOp8, bs)
  | 0x9 => .ok (.reservedOp9, bs)
  | 0xA => .ok (.reservedOpA, bs)
  | 0xB => .ok (.reservedOpB, bs)
  | 0xC => .ok (.reservedOpC, bs)
  | 0xD => .ok (.reservedOpD, bs)
  | 0xE => .ok (.reservedOpE, bs)
  | _ => .ok (.reservedOpF, bs)

/-- The decode cases of `word1`: bit 2 selects the form (R97). -/
def decodeWord1Rx (w : Word) : Instr :=
  if w.getLsbD 2 then .canslotW1Ext (w.extractLsb' 3 29) (w.extractLsb' 1 1) (w.extractLsb' 0 1)
  else .canslotW1Std (w.extractLsb' 21 11) (w.extractLsb' 3 18) (w.extractLsb' 1 1) (w.extractLsb' 0 1)

/-- The images ENCODE writes to `word1`: match 0x1 under mask 0x1FFFFF, match 0x5 under mask 0x7. The row's pattern is taken
as it stands, so an extended image with an identifier below 0x800, which ENCODE never writes (R91, R101), is the row too:
DESIGN CHOICE, log entry 23. -/
def decodeWord1Tx (w : Word) : Except Reject Instr :=
  if w.extractLsb' 0 21 = 1 then .ok (.canslotW1StdEnc (w.extractLsb' 21 11))
  else if w.extractLsb' 0 3 = 5 then .ok (.canslotW1ExtEnc (w.extractLsb' 3 29))
  else .error .notAnEncodeImage

/-- The decode cases of `word2`: bits 3:0 select legal or illegal (R97, R98). -/
def decodeWord2Rx (w : Word) : Instr :=
  let c := w.extractLsb' 16 16
  let x := w.extractLsb' 12 4
  let b := w.extractLsb' 4 8
  if w.extractLsb' 3 1 = 0 then .canslotW2Len0to7 c x b (w.extractLsb' 0 3)
  else if w.extractLsb' 0 4 = 8 then .canslotW2Len8 c x b
  else if w.extractLsb' 0 4 = 9 then .canslotW2Illegal9 c x b
  else if w.extractLsb' 1 3 = 5 then .canslotW2Illegal10to11 c x b (w.extractLsb' 0 1)
  else .canslotW2Illegal12to15 c x b (w.extractLsb' 0 2)

/-- The image ENCODE writes to `word2`: match 0x0 under mask 0xFFFFF000, LENGTH 0 to 8. -/
def decodeWord2Tx (w : Word) : Except Reject Instr :=
  if w.extractLsb' 12 20 = 0 ∧ (w.extractLsb' 0 4).toNat ≤ Config.dataMax then
    .ok (.canslotW2Enc (w.extractLsb' 4 8) (w.extractLsb' 0 4))
  else .error .notAnEncodeImage

/-- A chunk takes its length from the length of the write (R104), so all of the bytes belong to it. -/
def decodeKchunk : Bytes → Except Reject Instr
  | [] => .error .chunkSize
  | b :: chunk => if chunkLegal chunk then .ok (.kchunk b chunk) else .error .chunkSize

/-- header[1] selects legal (2 to 255) or illegal (0, 1) (R97, R99). -/
def decodeKrxHdr (h n : Byte) : Instr :=
  if n.extractLsb' 1 7 = 0 then .krxmsgHdrIllegal h (n.extractLsb' 0 1) else .krxmsgHdrLegal h n

def decodeResult (bs : Bytes) : Except Reject (Result × Bytes) := do
  let (tag, bs) ← takeByte bs
  match tag.toNat with
  | 0 => .ok (.nothing, bs)
  | 1 => do
    let (s, bs) ← takeSlot bs
    .ok (.slot s, bs)
  | 2 => do
    let (f, bs) ← takeCanFrame bs
    .ok (.frame f, bs)
  | 3 => do
    let (fs, bs) ← takeMany takeCanFrame bs.length bs
    let (dropped, bs) ← takeCount bs
    .ok (.frames fs dropped, bs)
  | 4 => do
    let (m, bs) ← takeSeq bs
    .ok (.message m, bs)
  | _ => .error .badResultTag

/-- STATUS codes, read (R226). -/
def decodeRsp (bs : Bytes) : Except Reject (Instr × Bytes) := do
  let (s, bs) ← takeNibble bs
  match s.toNat with
  | 0x0 => do
    let (v, bs) ← decodeResult bs
    .ok (.rsp (.ok v), bs)
  | 0x1 => .ok (.rsp (.error .callerError), bs)
  | 0x2 => .ok (.rsp (.error .formatError), bs)
  | 0x3 => .ok (.rsp (.error .protocolError), bs)
  | 0x4 => .ok (.rsp (.error .connectionError), bs)
  | 0x5 => .ok (.rsp (.error .transientIOError), bs)
  | 0x6 => .ok (.rsp (.error .otherTransportError), bs)
  | _ => .error .statusUnused

/-- The decoder: the instruction a port's bytes stand for and the bytes after it, or why there is none. -/
def decode : Port → Bytes → Except Reject (Instr × Bytes)
  | .cmd, bs => decodeCmd bs
  | .word1Rx, bs => do
    let (w, rest) ← takeWord bs
    .ok (decodeWord1Rx w, rest)
  | .word1Tx, bs => do
    let (w, rest) ← takeWord bs
    let i ← decodeWord1Tx w
    .ok (i, rest)
  | .word2Rx, bs => do
    let (w, rest) ← takeWord bs
    .ok (decodeWord2Rx w, rest)
  | .word2Tx, bs => do
    let (w, rest) ← takeWord bs
    let i ← decodeWord2Tx w
    .ok (i, rest)
  | .kchunk, bs => do
    let i ← decodeKchunk bs
    .ok (i, [])
  | .krxHdr, bs => do
    let (h, bs) ← takeByte bs
    let (n, bs) ← takeByte bs
    .ok (decodeKrxHdr h n, bs)
  | .rsp, bs => decodeRsp bs

/-! ### Bare table words -/

/-- Where a bare word of the table stands. The table's patterns of `word1` and of `word2` overlap and a bare word has no
place in a slot: an image of `word1` that ENCODE writes is taken first, then bit 3 set means `word2`, else `word1`.
DESIGN CHOICE, log entry 9. -/
def tableWordPort (w : Word) : Port :=
  if w.extractLsb' 0 21 = 1 ∨ w.extractLsb' 0 3 = 5 then .word1Tx
  else if w.getLsbD 3 then .word2Rx
  else .word1Rx

/-- The port and bytes of a bare word of spec/opcode_table.json: a row of at most 8 bits is a command (operand bytes of
zeros follow), of 16 bits a kline header (byte 0 in the upper half, R97), of 32 bits a word of a slot. -/
def tableFetch (nbits w : Nat) : Option (Port × Bytes) :=
  if nbits ≤ 8 then some (.cmd, BitVec.ofNat 8 w :: List.replicate 20 0)
  else if nbits = 16 then some (.krxHdr, [BitVec.ofNat 8 (w / 256), BitVec.ofNat 8 w])
  else if nbits = 32 then
    let v : Word := BitVec.ofNat 32 w
    some (tableWordPort v, le32 v)
  else none

/-- The instruction the decoder reads from a bare table word. -/
def decodeTableWord (nbits w : Nat) : Option Instr :=
  match tableFetch nbits w with
  | none => none
  | some (p, bs) =>
    match decode p bs with
    | .ok (i, _) => some i
    | .error _ => none

end Sys2Proof
end

