-- ==== Sys2Proof/Machine/State.lean ====
section
/-! DEFINITION. What the machine is (10_state.md): the block's persistent state, its configuration fields and working
registers, the environment state it can observe, and the channels of 92_eei_decisions.md D2 as plain lists. -/

namespace Sys2Proof.Machine

/-- The connection status (R27). -/
inductive Conn where
  | notEstablished
  | connected
  | closed
deriving DecidableEq, Repr

/-- The operations that can be in progress across a suspension point (R25). ENCODE and DECODE have none. -/
inductive Op where
  | sendmany
  | canrecv
  | ksend
  | krecv
deriving DecidableEq, Repr

/-- The suspension points that wait for a `MemWrite` (R25). -/
inductive WritePoint where
  /-- SM_WR(j), in SENDMANY -/
  | smWr (j : Nat)
  /-- KS_WR(k), in KSEND -/
  | ksWr (k : Nat)
deriving DecidableEq, Repr

/-- The suspension points that wait for a `MemRead` (R25). -/
inductive ReadPoint where
  /-- CR_RD, in CANRECV -/
  | crRd
  /-- KS_DRAIN, in KSEND -/
  | ksDrain
  /-- KS_ECHO(k), in KSEND -/
  | ksEcho (k : Nat)
  /-- KR_HDR, in KRECV -/
  | krHdr
  /-- KR_BODY, in KRECV -/
  | krBody
deriving DecidableEq, Repr

/-- The sequencer (R25, R26): IDLE, or BUSY at a suspension point, with the one outstanding transport call and its
arguments (20_memory.md R50, R63; a retry repeats them, R163). The operation of BUSY(op, point) is the point's own. -/
inductive Phase where
  | idle
  | writing (point : WritePoint) (ep : WriteEndpoint) (bytes : Bytes)
  | reading (point : ReadPoint) (ep : ReadEndpoint) (max : Nat)
deriving DecidableEq, Repr

/-- A transport call as issued (R51, R52). -/
inductive Call where
  | write (ep : WriteEndpoint) (bytes : Bytes)
  | read (ep : ReadEndpoint) (max : Nat)
deriving DecidableEq, Repr

/-- The transport's answer to the outstanding call (R51, R52). `ok n` is `Ok(bytesWritten = n)` for a write; for a read
it delivers the first `n` bytes that wait on the inbound side, fewer where fewer wait. -/
inductive Answer where
  | ok (n : Nat)
  | transientIOError
  | connectionError
  | otherTransportError
deriving DecidableEq, Repr

/-- What the environment does next (R16, R27, R32, R240, R261). DESIGN CHOICE (the form): log entries 4 and 20. -/
inductive Event where
  /-- the host presents a command descriptor -/
  | command (bytes : Bytes)
  /-- the transport answers the outstanding call -/
  | answer (a : Answer)
  /-- bytes arrive on an inbound side -/
  | arrive (ep : ReadEndpoint) (bytes : Bytes)
  /-- the transport loses the first `n` bytes of an inbound side (the breach of 20_memory.md R62, V22) -/
  | lose (ep : ReadEndpoint) (n : Nat)
  /-- the surrounding software establishes the connection -/
  | connect
  /-- the host or the transport closes the connection -/
  | close
  /-- reset -/
  | reset
deriving DecidableEq, Repr

/-- An entry of `klog` (R30). -/
structure LogEntry where
  k    : Nat
  sent : Bytes
  echo : Bytes
deriving DecidableEq, Repr

/-- The bytes that wait on each inbound side (R32), the model's memory: keys strictly rising, no side listed that holds
nothing (`Memory.wf` in Ops). An unlisted side holds nothing. -/
abbrev Memory := List (ReadEndpoint × Bytes)

/-- The working registers (R24), each under its own name; `kfinal` is KECHO's captured operand (44_kline_echo_verifier.md
R196). -/
structure Regs where
  addr   : Address
  busr   : Byte
  data   : Bytes
  w1     : Word
  w2     : Word
  slot   : Slot
  ext    : Bool
  len    : BitVec 4
  ctr    : BitVec 16
  frames : List TxFrame
  txbuf  : Bytes
  rxbuf  : Bytes
  nslot  : BitVec 9
  idx    : BitVec 9
  att    : Nat
  kmsg   : Bytes
  csen   : Bool
  csum   : Byte
  kbuf   : Bytes
  nch    : Nat
  kidx   : Nat
  chunk  : Bytes
  kfinal : Bool
  echo   : Bytes
  acc    : Bytes
  need   : Byte
  hdr    : Byte × Byte
  rem    : Byte
  body   : Bytes
deriving DecidableEq, Repr

/-- The machine. -/
structure State where
  /-- configuration fields (R28) -/
  cfg     : Params
  /-- connection status (R27) -/
  conn    : Conn
  /-- logged echo mismatches, oldest first (R30), which the host reads -/
  klog    : List LogEntry
  /-- sequencer (R25) -/
  phase   : Phase
  /-- working registers (R24) -/
  regs    : Regs
  /-- bytes waiting on the inbound sides (R32) -/
  inbound : Memory
  /-- the environment's events to come, oldest first: the model's own, log entry 4 -/
  inbox   : List Event
  /-- the events that come over and over, for ever, once `inbox` is used up: the model's own, log entry 4 -/
  recurring : List Event
  /-- a unit input word to be run alone: the model's own, log entry 10 -/
  latch   : Option (Port × Bytes)
  /-- the transport calls issued, oldest first: the TP channel, the model's own -/
  calls   : List Call
  /-- the responses delivered, oldest first: the RSP channel, the model's own -/
  rsps    : List Response
  /-- the diagnostic events emitted, oldest first: the LOG channel (00_scope.md R11, 92_eei_decisions.md D2), log entry 22 -/
  logs    : List LogEntry
deriving DecidableEq, Repr

/-- Working registers after reset. The spec leaves them unspecified (R33): DESIGN CHOICE zero and empty, log entry 3. -/
def Regs.reset : Regs where
  addr   := 0
  busr   := 0
  data   := []
  w1     := 0
  w2     := 0
  slot   := #v[0, 0, 0, 0, 0, 0, 0, 0, 0, 0, 0, 0, 0, 0, 0, 0]
  ext    := false
  len    := 0
  ctr    := 0
  frames := []
  txbuf  := []
  rxbuf  := []
  nslot  := 0
  idx    := 0
  att    := 0
  kmsg   := []
  csen   := false
  csum   := 0
  kbuf   := []
  nch    := 0
  kidx   := 0
  chunk  := []
  kfinal := false
  echo   := []
  acc    := []
  need   := 0
  hdr    := (0, 0)
  rem    := 0
  body   := []

/-- The machine right after reset (R33, R260): IDLE, NotEstablished, an empty log, the parameters in place. Empty inbound
sides: DESIGN CHOICE, log entry 5. -/
def State.reset : State where
  cfg     := Params.initial
  conn    := .notEstablished
  klog    := []
  phase   := .idle
  regs    := Regs.reset
  inbound := []
  inbox   := []
  recurring := []
  latch   := none
  calls   := []
  rsps    := []
  logs    := []

/-- Reasons for the machine to stop with a fault: none. The spec describes nothing that stops the block: an error kind ends
one operation and leaves the block idle for the next (60_exceptions.md R225, R230, R232), so it is a next state here. -/
inductive Fault where
deriving DecidableEq, Repr

/-- Reasons for which the model gives a run no further meaning (60_exceptions.md R234). All are safe: the machine takes no
step. -/
inductive Refusal where
  /-- raised by no meaning: an instruction that has none yet; safe -/
  | notModelled (mnemonic : String)
  /-- raised by the ten reserved `op` values (30_encoding.md R102); safe -/
  | reservedOp (op : BitVec 4)
  /-- raised by a command event while an operation is in progress (10_state.md R26); safe -/
  | busy
  /-- raised by bytes that are no instruction of their port; safe -/
  | undecodable (why : Reject)
  /-- raised by a read answer longer than the request (20_memory.md R69); safe -/
  | overlongAnswer (max got : Nat)
  /-- raised by SENDMANY past a bounded TX_FRAMES_MAX (00_scope.md R7, D28, log entry 18); safe -/
  | tooManyFrames (limit : Nat)
  /-- raised by KSEND past a bounded KSEND_MAX (R7, D28, log entry 18); safe -/
  | messageTooLong (limit : Nat)
deriving DecidableEq, Repr

end Sys2Proof.Machine
end

