-- ==== Sys2Proof/Machine/Ops.lean ====
section
/-! DEFINITION. The operations every meaning is built from: the inbound sides, issuing a transport call (20_memory.md R51,
R52), ending an operation (10_state.md R26, R29) and ending it with an error (60_exceptions.md R230). -/

namespace Sys2Proof.Machine

/-! ### The inbound sides -/

/-- The place of an inbound side in the listing. -/
def readKey : ReadEndpoint → Nat
  | .canRx => 0
  | .klRx bus => bus.toNat + 1

/-- The bytes that wait on an inbound side. -/
def Memory.waiting : Memory → ReadEndpoint → Bytes
  | [], _ => []
  | (e, q) :: rest, ep => if e = ep then q else Memory.waiting rest ep

/-- An inbound side given new contents; a side that holds nothing is not listed. -/
def Memory.put : Memory → ReadEndpoint → Bytes → Memory
  | [], ep, q => if q = [] then [] else [(ep, q)]
  | (e, r) :: rest, ep, q =>
    if e = ep then (if q = [] then rest else (ep, q) :: rest)
    else if readKey ep < readKey e then (if q = [] then (e, r) :: rest else (ep, q) :: (e, r) :: rest)
    else (e, r) :: Memory.put rest ep q

/-- The canonical form: keys strictly rising and no empty side. -/
def Memory.wf : Memory → Bool
  | [] => true
  | (e, q) :: rest => decide (q ≠ []) && rest.all (fun p => decide (readKey e < readKey p.1)) && Memory.wf rest

/-- The bytes an answer `ok n` would deliver from an inbound side. -/
def State.peek (s : State) (ep : ReadEndpoint) (n : Nat) : Bytes := (s.inbound.waiting ep).take n

/-- Reads consume (20_memory.md R58): the first `n` bytes of an inbound side are gone. -/
def State.consume (s : State) (ep : ReadEndpoint) (n : Nat) : State :=
  { s with inbound := s.inbound.put ep ((s.inbound.waiting ep).drop n) }

/-- Bytes arrive behind those that wait. -/
def State.arrive (s : State) (ep : ReadEndpoint) (bytes : Bytes) : State :=
  { s with inbound := s.inbound.put ep (s.inbound.waiting ep ++ bytes) }

/-! ### The working registers -/

/-- The working registers rewritten, nothing else. -/
def State.mapRegs (s : State) (f : Regs → Regs) : State := { s with regs := f s.regs }

/-! ### The sequencer -/

/-- The operation of BUSY(op, point) (R25). -/
def Phase.op : Phase → Option Op
  | .idle => none
  | .writing (.smWr _) _ _ => some .sendmany
  | .writing (.ksWr _) _ _ => some .ksend
  | .reading .crRd _ _ => some .canrecv
  | .reading .ksDrain _ _ => some .ksend
  | .reading (.ksEcho _) _ _ => some .ksend
  | .reading .krHdr _ _ => some .krecv
  | .reading .krBody _ _ => some .krecv

/-- `MemWrite(ep, len bytes, bytes)`: the call is issued and the block waits at `point` (R51, R25). -/
def issueWrite (point : WritePoint) (ep : WriteEndpoint) (bytes : Bytes) (s : State) : State :=
  { s with phase := .writing point ep bytes, calls := s.calls ++ [.write ep bytes] }

/-- `MemRead(ep, max)`: the call is issued and the block waits at `point` (R52, R25). -/
def issueRead (point : ReadPoint) (ep : ReadEndpoint) (max : Nat) (s : State) : State :=
  { s with phase := .reading point ep max, calls := s.calls ++ [.read ep max] }

/-- A response is delivered and the block is idle (10_state.md R26, R29). -/
def respond (r : Response) (s : State) : State :=
  { s with phase := .idle, rsps := s.rsps ++ [r] }

/-- `return v` from an operation: it ends OK (R29). -/
def finish (v : Result) (s : State) : State := respond (.ok v) s

/-- `raise E` (60_exceptions.md R230), the one way an error is taken: the operation ends at this step, `phase` is IDLE, the
kind is delivered without a result, `conn` and `klog` stay; nothing is saved and control goes nowhere. There is no return
from it (R232): the block takes the next command. -/
def raiseError (k : ErrorKind) (s : State) : State := respond (.error k) s

/-- The identifier a call hands to the transport (R56). -/
def callEndpointId : Call → Nat
  | .write ep _ => Config.writeEndpointId ep
  | .read ep _ => Config.readEndpointId ep

/-- `log(e)` (00_scope.md R11): the diagnostic event is emitted and appended to `klog` (10_state.md R30, D18). -/
def logEvent (e : LogEntry) (s : State) : State := { s with klog := s.klog ++ [e], logs := s.logs ++ [e] }

/-! ### The environment -/

/-- What the environment does next: `inbox`, and once that is used up the recurring events from their first on. -/
def State.upcoming (s : State) : List Event :=
  match s.inbox with
  | e :: rest => e :: rest
  | [] => s.recurring

/-! ### Answers -/

/-- R53: when `conn` is not Connected at the time a call is answered, the answer is ConnectionError. -/
def Answer.under (a : Answer) (c : Conn) : Answer :=
  match c with
  | .connected => a
  | .notEstablished => .connectionError
  | .closed => .connectionError

/-! ### The connection (R27) -/

/-- The only move the surrounding software makes. -/
def Conn.establish : Conn → Conn
  | .notEstablished => .connected
  | .connected => .connected
  | .closed => .closed

/-- The only move a close makes; Closed is terminal. -/
def Conn.shut : Conn → Conn
  | .notEstablished => .notEstablished
  | .connected => .closed
  | .closed => .closed

/-- Reset (R33, R260, R261): an operation in progress is abandoned without a response; what was issued stays issued and
the inbound sides are not touched. `klog` is empty again; the events emitted stay emitted. Log entry 16. -/
def resetBlock (s : State) : State :=
  { s with phase := .idle, conn := .notEstablished, klog := [], regs := Regs.reset }

end Sys2Proof.Machine
end

