-- ==== Sys2Proof/Machine/Operands.lean ====
section
/-! DEFINITION. The operand forms: the words and bytes of a slot (30_encoding.md R81 to R84, R91 to R93), the cut of a
buffer into slots (41_bus_multiplexer.md R146), and the checksum and chunks of the kline path (R85, R86, R94, R95). -/

namespace Sys2Proof.Machine

/-! ### A slot, as ENCODE writes it -/

/-- `word1_of(address)` (40_frame_codec.md R121): the form is chosen by the value alone. -/
def word1Of (address : Address) : Word :=
  if Config.stdLimit ≤ address.toNat then (address.setWidth 32 <<< 3) ||| 0x1#32 ||| 0x4#32
  else (address.setWidth 32 <<< 21) ||| 0x1#32

/-- `word2_of(n, bus)` (R122). -/
def word2Of (n : Nat) (bus : Byte) : Word := BitVec.ofNat 32 n ||| (bus.setWidth 32 <<< 4)

/-- `slot_of(W1, W2, data)` (R123): LE32 of both words, the payload, zero padding. -/
def slotOf (w1 w2 : Word) (data : Bytes) : Slot :=
  #v[w1.extractLsb' 0 8, w1.extractLsb' 8 8, w1.extractLsb' 16 8, w1.extractLsb' 24 8,
     w2.extractLsb' 0 8, w2.extractLsb' 8 8, w2.extractLsb' 16 8, w2.extractLsb' 24 8,
     data.getD 0 0, data.getD 1 0, data.getD 2 0, data.getD 3 0,
     data.getD 4 0, data.getD 5 0, data.getD 6 0, data.getD 7 0]

/-- The slot of a frame. -/
def encodeSlot (address : Address) (data : Bytes) (bus : Byte) : Slot :=
  slotOf (word1Of address) (word2Of data.length bus) data

/-! ### A slot, as DECODE reads it -/

/-- `word1` of a slot: unLE32 of offsets 0 to 3 (R125). -/
def slotWord1 (s : Slot) : Word := unLE32 s[0] s[1] s[2] s[3]

/-- `word2` of a slot: unLE32 of offsets 4 to 7 (R125). -/
def slotWord2 (s : Slot) : Word := unLE32 s[4] s[5] s[6] s[7]

/-- EXTENDED, bit 2 of `word1` (R126). -/
def wordExtended (w1 : Word) : Bool := w1.getLsbD 2

/-- The identifier of `word1` (R92, R126). -/
def wordAddress (w1 : Word) : Address :=
  if wordExtended w1 then (w1 >>> 3).setWidth 29 else (w1 >>> 21).setWidth 29

/-- LENGTH, BUS and COUNTER of `word2` (R84, R127, R128). -/
def wordLength (w2 : Word) : BitVec 4 := (w2 &&& 0xF#32).setWidth 4
def wordBus (w2 : Word) : Byte := ((w2 >>> 4) &&& 0xFF#32).setWidth 8
def wordCounter (w2 : Word) : BitVec 16 := (w2 >>> 16).setWidth 16

/-- `slot[8 : 8 + n]` (R128). -/
def slotPayload (s : Slot) (n : Nat) : Bytes := (s.toList.drop 8).take n

/-! ### A buffer of slots -/

/-- The 16 bytes of a buffer from offset `16 * i` (20_memory.md R57). -/
def sliceAt (buf : Bytes) (i : Nat) : Bytes := (buf.drop (Config.slotBytes * i)).take Config.slotBytes

/-- A slot from its 16 bytes. -/
def slotOfBytes (b : Bytes) : Slot :=
  #v[b.getD 0 0, b.getD 1 0, b.getD 2 0, b.getD 3 0, b.getD 4 0, b.getD 5 0, b.getD 6 0, b.getD 7 0,
     b.getD 8 0, b.getD 9 0, b.getD 10 0, b.getD 11 0, b.getD 12 0, b.getD 13 0, b.getD 14 0, b.getD 15 0]

/-- The first `n` whole slots of a buffer, slot 0 first (R146). -/
def slotsOf (buf : Bytes) (n : Nat) : List Slot := (List.range n).map (fun i => slotOfBytes (sliceAt buf i))

/-! ### The kline path -/

/-- `checksum = sum(message) mod 256`, the low 8 bits of the unbounded sum (R94). -/
def checksum (message : Bytes) : Byte := BitVec.ofNat 8 (message.map BitVec.toNat).sum

/-- KBUF (R85). -/
def kbufOf (message : Bytes) (cs : Bool) : Bytes := if cs then message ++ [checksum message] else message

/-- `NCH = ceil(len / 15)` (R178). -/
def chunkCount (len : Nat) : Nat := (len + 14) / 15

/-- Chunk `k` of a buffer (R178): consecutive cuts at multiples of 15. -/
def chunkAt (buf : Bytes) (k : Nat) : Bytes := (buf.drop (Config.chunkMax * k)).take Config.chunkMax

/-- The selector byte (R95): the identity, decision D15. -/
def selectorByte (bus : Byte) : Byte := bus

/-- KCHUNK, the chunk on the wire (R86). -/
def wireChunk (bus : Byte) (chunk : Bytes) : Bytes := selectorByte bus :: chunk

end Sys2Proof.Machine
end

