-- ==== Sys2Proof/Machine/Flags.lean ====
section
/-! DEFINITION. The tests that choose between outcomes. The block has no condition codes and no flag that one operation
sets and another reads (10_state.md R29); what it computes in their place are these conditions. -/

namespace Sys2Proof.Machine

/-- `len(data) > 8`: a caller error (R120, R141). -/
def payloadTooLong (data : Bytes) : Bool := decide (Config.dataMax < data.length)

/-- `LEN > 8`: a format error (R127). -/
def lengthIllegal (len : BitVec 4) : Bool := decide (8 < len.toNat)

/-- `HDR[1] < 2`: a format error (R212). -/
def headerIllegal (n : Byte) : Bool := decide (n.toNat < 2)

/-- `RETRY_LIMIT is bounded and ATT >= RETRY_LIMIT` (R161, R162). -/
def retryExhausted (limit : Option Nat) (att : Nat) : Bool :=
  match limit with
  | none => false
  | some n => decide (n ≤ att)

/-- `fatal(ECHO_POLICY, final)` (R199). -/
def echoFatal : EchoPolicy → Bool → Bool
  | .source, final => final
  | .alwaysFatal, _ => true
  | .alwaysLogged, _ => false

/-- A count within a bound that may be `unbounded` (R7). -/
def withinLimit (limit : Option Nat) (n : Nat) : Bool :=
  match limit with
  | none => true
  | some m => decide (n ≤ m)

end Sys2Proof.Machine
end

