-- ==== Sys2Proof/Machine/FrameCodec.lean ====
section
/-! DEFINITION. Units U1 and U2, FrameCodec (40_frame_codec.md): ENCODE, DECODE, and the rows of a slot's words and payload. -/

namespace Sys2Proof.Machine

/-! ### The units' work on the working registers -/

/-- ENCODE's operand capture (20_memory.md R66). -/
def captureFrame (address : Address) (data : Bytes) (bus : Byte) (r : Regs) : Regs :=
  { r with addr := address, data := data, busr := bus }

/-- W1, W2 and SLOT of a frame (R120: rules R121, R122, R123). -/
def encodeInto (address : Address) (data : Bytes) (bus : Byte) (r : Regs) : Regs :=
  { captureFrame address data bus r with
    w1 := word1Of address
    w2 := word2Of data.length bus
    slot := encodeSlot address data bus }

/-- DECODE's step on `word1` (R126). -/
def readWord1 (w1 : Word) (r : Regs) : Regs :=
  { r with w1 := w1, ext := wordExtended w1, addr := wordAddress w1 }

/-- DECODE's step on `word2` (R125, R127, R128): the remaining fields are taken only from a legal length. -/
def readWord2 (w2 : Word) (r : Regs) : Regs :=
  let r' := { r with w2 := w2, len := wordLength w2 }
  if lengthIllegal (wordLength w2) then r'
  else { r' with data := slotPayload r.slot (wordLength w2).toNat, busr := wordBus w2, ctr := wordCounter w2 }

/-- DECODE on the working registers: operand capture, then both words. -/
def decodeInto (slot : Slot) (r : Regs) : Regs :=
  readWord2 (slotWord2 slot) (readWord1 (slotWord1 slot) { r with slot := slot })

/-- The CanFrame the registers hold (R125). -/
def frameOf (r : Regs) : CanFrame := ⟨r.addr, r.data, r.busr, r.ctr⟩

/-- What a slot decodes to; `none` is FormatError (R125, R127). -/
def decodeSlot (slot : Slot) : Option CanFrame :=
  let w1 := slotWord1 slot
  let w2 := slotWord2 slot
  if lengthIllegal (wordLength w2) then none
  else some ⟨wordAddress w1, slotPayload slot (wordLength w2).toNat, wordBus w2, wordCounter w2⟩

/-! ### The operations -/

/-- ENCODE (R120). -/
def execEncode (address : Address) (data : Bytes) (bus : Byte) (s : State) : Host.Outcome State Fault Refusal :=
  if payloadTooLong data then .next (raiseError .callerError (s.mapRegs (captureFrame address data bus)))
  else .next (finish (.slot (encodeSlot address data bus)) (s.mapRegs (encodeInto address data bus)))

/-- DECODE (R125). -/
def execDecode (slot : Slot) (s : State) : Host.Outcome State Fault Refusal :=
  let s' := s.mapRegs (decodeInto slot)
  if lengthIllegal s'.regs.len then .next (raiseError .formatError s')
  else .next (finish (.frame (frameOf s'.regs)) s')

/-! ### The decode cases of `word1` -/

/-- CANSLOT.W1.STD (30_encoding.md R82, R126): `address <- word1[31:21]`, widened with zeros. -/
def execCanslotW1Std (a : BitVec 11) (x : BitVec 18) (y t : BitVec 1) (s : State) : Host.Outcome State Fault Refusal :=
  .next (s.mapRegs fun r => { r with w1 := word1StdBits a x y t, ext := false, addr := a.setWidth 29 })

/-- CANSLOT.W1.EXT (R83, R126): `address <- word1[31:3]`. -/
def execCanslotW1Ext (a : BitVec 29) (y t : BitVec 1) (s : State) : Host.Outcome State Fault Refusal :=
  .next (s.mapRegs fun r => { r with w1 := word1ExtBits a y t, ext := true, addr := a })

/-! ### The images ENCODE writes -/

/-- CANSLOT.W1.STD.ENC (R121): `(address << 21) | TRANSMIT`. -/
def execCanslotW1StdEnc (a : BitVec 11) (s : State) : Host.Outcome State Fault Refusal :=
  .next (s.mapRegs fun r => { r with w1 := word1StdBits a 0 0 1 })

/-- CANSLOT.W1.EXT.ENC (R121): `(address << 3) | TRANSMIT | EXTENDED`. -/
def execCanslotW1ExtEnc (a : BitVec 29) (s : State) : Host.Outcome State Fault Refusal :=
  .next (s.mapRegs fun r => { r with w1 := word1ExtBits a 0 1 })

/-- CANSLOT.W2.ENC (R122): `len(data) | (bus << 4)`. -/
def execCanslotW2Enc (b : Byte) (l : BitVec 4) (s : State) : Host.Outcome State Fault Refusal :=
  .next (s.mapRegs fun r => { r with w2 := word2Bits 0 0 b l })

/-- CANSLOT.PAYLOAD (R81, R123): the slot of W1, W2 and the payload, zero padded. A payload past offset 15 is ENCODE's
caller error (R120). -/
def execCanslotPayload (data : Bytes) (s : State) : Host.Outcome State Fault Refusal :=
  if payloadTooLong data then .next (raiseError .callerError s)
  else .next (s.mapRegs fun r => { r with slot := slotOf r.w1 r.w2 data })

/-! ### The decode cases of `word2` -/

/-- A legal LENGTH (R84, R128): the payload of the captured slot, BUS and COUNTER. -/
def readLegalWord2 (c : BitVec 16) (x : BitVec 4) (b : Byte) (l : BitVec 4) (r : Regs) : Regs :=
  { r with w2 := word2Bits c x b l, len := l, data := slotPayload r.slot l.toNat, busr := b, ctr := c }

/-- An illegal LENGTH (R98, R127): FormatError, and nothing of the slot is delivered. -/
def refuseLength (c : BitVec 16) (x : BitVec 4) (b : Byte) (l : BitVec 4) (s : State) : State :=
  raiseError .formatError (s.mapRegs fun r => { r with w2 := word2Bits c x b l, len := l })

/-- CANSLOT.W2.LEN0_7 (R84, R128). -/
def execCanslotW2Len0to7 (c : BitVec 16) (x : BitVec 4) (b : Byte) (l : BitVec 3) (s : State) :
    Host.Outcome State Fault Refusal :=
  .next (s.mapRegs (readLegalWord2 c x b (0#1 ++ l)))

/-- CANSLOT.W2.LEN8 (R84, R128). -/
def execCanslotW2Len8 (c : BitVec 16) (x : BitVec 4) (b : Byte) (s : State) : Host.Outcome State Fault Refusal :=
  .next (s.mapRegs (readLegalWord2 c x b 8))

/-- CANSLOT.W2.ILLEGAL_9 (R98, R127). -/
def execCanslotW2Illegal9 (c : BitVec 16) (x : BitVec 4) (b : Byte) (s : State) : Host.Outcome State Fault Refusal :=
  .next (refuseLength c x b 9 s)

/-- CANSLOT.W2.ILLEGAL_10_11 (R98, R127). -/
def execCanslotW2Illegal10to11 (c : BitVec 16) (x : BitVec 4) (b : Byte) (l : BitVec 1) (s : State) :
    Host.Outcome State Fault Refusal :=
  .next (refuseLength c x b (5#3 ++ l) s)

/-- CANSLOT.W2.ILLEGAL_12_15 (R98, R127). -/
def execCanslotW2Illegal12to15 (c : BitVec 16) (x : BitVec 4) (b : Byte) (l : BitVec 2) (s : State) :
    Host.Outcome State Fault Refusal :=
  .next (refuseLength c x b (3#2 ++ l) s)

end Sys2Proof.Machine
end

