-- ==== Sys2Proof/Machine/TransportRetry.lean ====
section
/-! DEFINITION. Unit U4, TransportRetry (42_transport_retry.md): WRRETRY and RDRETRY, the loop around one transport call. -/

namespace Sys2Proof.Machine

/-- WRRETRY up to its suspension point (R161): `ATT <- 0`, then the loop's `ATT <- ATT + 1` and the call. `j` is the index
of the logical write (SM_WR(j), R25). -/
def beginWrretry (j : Nat) (ep : WriteEndpoint) (buf : Bytes) (s : State) : State :=
  issueWrite (.smWr j) ep buf (s.mapRegs fun r => { r with att := 1 })

/-- RDRETRY up to its suspension point (R162). -/
def beginRdretry (ep : ReadEndpoint) (max : Nat) (s : State) : State :=
  issueRead .crRd ep max (s.mapRegs fun r => { r with att := 1 })

/-- A transient answer to a logical write (R161, R163, R164): TransientIOError when a bounded limit is used up, else the
same call once more, the whole of the buffer. -/
def retryWrite (point : WritePoint) (ep : WriteEndpoint) (buf : Bytes) (s : State) : State :=
  if retryExhausted s.cfg.retryLimit s.regs.att then raiseError .transientIOError s
  else issueWrite point ep buf (s.mapRegs fun r => { r with att := r.att + 1 })

/-- A transient answer to a logical read (R162, R163, R164). -/
def retryRead (point : ReadPoint) (ep : ReadEndpoint) (max : Nat) (s : State) : State :=
  if retryExhausted s.cfg.retryLimit s.regs.att then raiseError .transientIOError s
  else issueRead point ep max (s.mapRegs fun r => { r with att := r.att + 1 })

/-- WRRETRY (R161), started at the current index of the write loop. -/
def execWrretry (ep : WriteEndpoint) (buf : Bytes) (s : State) : Host.Outcome State Fault Refusal :=
  .next (beginWrretry s.regs.idx.toNat ep buf s)

/-- RDRETRY (R162). -/
def execRdretry (ep : ReadEndpoint) (max : Nat) (s : State) : Host.Outcome State Fault Refusal :=
  .next (beginRdretry ep max s)

end Sys2Proof.Machine
end

