-- ==== Sys2Proof/Machine/BusMultiplexer.lean ====
section
/-! DEFINITION. Unit U3, BusMultiplexer (41_bus_multiplexer.md): SENDMANY and CANRECV. -/

namespace Sys2Proof.Machine

/-! ### SENDMANY -/

/-- The encoding loop (R142): ENCODE for each frame in order, IDX the low 9 bits of its index (log entry 14), and the
slots in input order. -/
def encodeLoop : Nat → List TxFrame → Regs → Regs × Bytes
  | _, [], r => (r, [])
  | i, f :: fs, r =>
    let r' := encodeInto f.address f.data f.bus { r with idx := BitVec.ofNat 9 i }
    let (r'', buf) := encodeLoop (i + 1) fs r'
    (r'', r'.slot.toList ++ buf)

/-- The write loop with BATCH false, from index `j` (R143): one logical write per slot, or the end. -/
def sendFrom (j : Nat) (s : State) : State :=
  if j < s.regs.frames.length then
    beginWrretry j .canTx (sliceAt s.regs.txbuf j) (s.mapRegs fun r => { r with idx := BitVec.ofNat 9 j })
  else finish .nothing s

/-- The writing step (R143): one logical write of the concatenation, or one per slot. -/
def sendSlots (s : State) : State :=
  if s.cfg.batch then beginWrretry 0 .canTx s.regs.txbuf s else sendFrom 0 s

/-- A logical write of SENDMANY ended with Ok (R143). -/
def sendWritten (j : Nat) (s : State) : State :=
  if s.cfg.batch then finish .nothing s else sendFrom (j + 1) s

/-- SENDMANY's capture and encoding (R140, R142). -/
def encodeFrames (frames : List TxFrame) (r : Regs) : Regs :=
  let (r', buf) := encodeLoop 0 frames { r with frames := frames }
  { r' with txbuf := buf }

/-- SENDMANY (R140): every payload length first (R141), then encoding, then writing. -/
def execSendmany (frames : List TxFrame) (s : State) : Host.Outcome State Fault Refusal :=
  if withinLimit s.cfg.txFramesMax frames.length then
    if frames.any (fun f => payloadTooLong f.data) then
      .next (raiseError .callerError (s.mapRegs fun r => { r with frames := frames }))
    else .next (sendSlots (s.mapRegs (encodeFrames frames)))
  else .refused (.tooManyFrames (s.cfg.txFramesMax.getD 0))

/-! ### CANRECV -/

/-- The decoding loop (R147): DECODE for each slot in order, IDX the slot's index; `none` marks FormatError (R148). -/
def decodeLoop : Nat → List Slot → Regs → Regs × List (Option CanFrame)
  | _, [], r => (r, [])
  | i, sl :: sls, r =>
    let r' := decodeInto sl { r with idx := BitVec.ofNat 9 i }
    let (r'', fs) := decodeLoop (i + 1) sls r'
    (r'', (if lengthIllegal r'.len then none else some (frameOf r')) :: fs)

/-- `result_of(R)` (R148). -/
def receiveResult (policy : RxErrPolicy) (results : List (Option CanFrame)) : Response :=
  let failed := (results.filter Option.isNone).length
  match policy with
  | .drop => .ok (.frames (results.filterMap id) failed)
  | .abort => if failed = 0 then .ok (.frames (results.filterMap id) 0) else .error .formatError

/-- CANRECV from the bytes of its read (R145, R146): `floor(len / 16)` slots, the partial tail dropped. -/
def receiveBytes (bytes : Bytes) (s : State) : State :=
  let n := bytes.length / Config.slotBytes
  let (regs, results) :=
    decodeLoop 0 (slotsOf bytes n) { s.regs with rxbuf := bytes, nslot := BitVec.ofNat 9 n }
  respond (receiveResult s.cfg.rxErrPolicy results) { s with regs := regs }

/-- CANRECV (R145): one logical read of up to 4096 bytes. -/
def execCanrecv (s : State) : Host.Outcome State Fault Refusal :=
  .next (beginRdretry .canRx Config.rxMax s)

end Sys2Proof.Machine
end

