-- ==== Sys2Proof/Machine/Interface.lean ====
section
/-! DEFINITION. The command and response interface (30_encoding.md R89, R90): the response descriptor and the reserved `op`
values. -/

namespace Sys2Proof.Machine

/-- RSP (R90, R226): the response is delivered and the operation has ended (10_state.md R26, R29). -/
def execRsp (r : Response) (s : State) : Host.Outcome State Fault Refusal := .next (respond r s)

/-- What the host reads of the log: all of it while the block is idle (10_state.md R30, 60_exceptions.md R246). A liberty of
the host that changes no state. -/
def readLog (s : State) : Option (List LogEntry) :=
  match s.phase with
  | .idle => some s.klog
  | .writing _ _ _ => none
  | .reading _ _ _ => none

/-- A reserved `op` (R102): no meaning; the model refuses it and takes no step. -/
def refuseOp (op : BitVec 4) : Host.Outcome State Fault Refusal := .refused (.reservedOp op)

/-- RESERVED_OP_0 (R102). -/
def execReservedOp0 (_s : State) : Host.Outcome State Fault Refusal := refuseOp 0x0
/-- RESERVED_OP_7 (R102). -/
def execReservedOp7 (_s : State) : Host.Outcome State Fault Refusal := refuseOp 0x7
/-- RESERVED_OP_8 (R102). -/
def execReservedOp8 (_s : State) : Host.Outcome State Fault Refusal := refuseOp 0x8
/-- RESERVED_OP_9 (R102). -/
def execReservedOp9 (_s : State) : Host.Outcome State Fault Refusal := refuseOp 0x9
/-- RESERVED_OP_A (R102). -/
def execReservedOpA (_s : State) : Host.Outcome State Fault Refusal := refuseOp 0xA
/-- RESERVED_OP_B (R102). -/
def execReservedOpB (_s : State) : Host.Outcome State Fault Refusal := refuseOp 0xB
/-- RESERVED_OP_C (R102). -/
def execReservedOpC (_s : State) : Host.Outcome State Fault Refusal := refuseOp 0xC
/-- RESERVED_OP_D (R102). -/
def execReservedOpD (_s : State) : Host.Outcome State Fault Refusal := refuseOp 0xD
/-- RESERVED_OP_E (R102). -/
def execReservedOpE (_s : State) : Host.Outcome State Fault Refusal := refuseOp 0xE
/-- RESERVED_OP_F (R102). -/
def execReservedOpF (_s : State) : Host.Outcome State Fault Refusal := refuseOp 0xF

end Sys2Proof.Machine
end

