-- ==== Sys2Proof/Machine/KlineChecksumCodec.lean ====
section
/-! DEFINITION. Unit U5, KlineChecksumCodec (43_kline_checksum_codec.md): KSEND, KDRAIN, and the rows KBUF and KCHUNK. -/

namespace Sys2Proof.Machine

/-- KDRAIN's read (R176). -/
def drainRead (s : State) : State := issueRead .ksDrain (.klRx s.regs.busr) s.cfg.klDrainMax s

/-- KDRAIN up to its suspension point (R176): at least one read is always made. -/
def beginDrain (bus : Byte) (s : State) : State := drainRead (s.mapRegs fun r => { r with busr := bus })

/-- Step 2 (R177): CSUM is written only with the checksum enabled. -/
def buildKbuf (message : Bytes) (cs : Bool) (r : Regs) : Regs :=
  { r with
    kmsg := message
    csen := cs
    csum := if cs then checksum message else r.csum
    kbuf := kbufOf message cs }

/-- A chunk goes out (R179, R86): one bare write of selector and chunk. -/
def writeChunk (k : Nat) (bus : Byte) (chunk : Bytes) (s : State) : State :=
  issueWrite (.ksWr k) .klTx (wireChunk bus chunk)
    (s.mapRegs fun r => { r with kidx := k, chunk := chunk, busr := bus })

/-- The chunk loop from index `k` (R178, R179): the next chunk, or the end of KSEND. -/
def chunkFrom (k : Nat) (s : State) : State :=
  if k < s.regs.nch then writeChunk k s.regs.busr (chunkAt s.regs.kbuf k) s else finish .nothing s

/-- Steps 2 to 4 of KSEND, after the drain (R175). -/
def afterDrain (s : State) : State :=
  chunkFrom 0 (s.mapRegs fun r =>
    let r' := buildKbuf r.kmsg r.csen r
    { r' with nch := chunkCount r'.kbuf.length })

/-- A drain read was answered (R176): no byte ends the drain, any other bytes are discarded and the read is made again. -/
def drainGot (bytes : Bytes) (s : State) : State := if bytes = [] then afterDrain s else drainRead s

/-- KSEND (R175): operand capture and step 1. -/
def execKsend (message : Bytes) (bus : Byte) (cs : Bool) (s : State) : Host.Outcome State Fault Refusal :=
  if withinLimit s.cfg.ksendMax message.length then
    .next (beginDrain bus (s.mapRegs fun r => { r with kmsg := message, csen := cs }))
  else .refused (.messageTooLong (s.cfg.ksendMax.getD 0))

/-- KDRAIN (R176). -/
def execKdrain (bus : Byte) (s : State) : Host.Outcome State Fault Refusal := .next (beginDrain bus s)

/-- KBUF (R85, R177). -/
def execKbuf (message : Bytes) (cs : Bool) (s : State) : Host.Outcome State Fault Refusal :=
  .next (s.mapRegs (buildKbuf message cs))

/-- KCHUNK (R86, R179): the chunk at the current index goes out. -/
def execKchunk (b : Byte) (chunk : Bytes) (s : State) : Host.Outcome State Fault Refusal :=
  .next (writeChunk s.regs.kidx b chunk s)

end Sys2Proof.Machine
end

