-- ==== Sys2Proof/Machine/KlineEchoVerifier.lean ====
section
/-! DEFINITION. Unit U6, KlineEchoVerifier (44_kline_echo_verifier.md): KECHO and the loop of RDEXACT. -/

namespace Sys2Proof.Machine

/-! ### RDEXACT's loop -/

/-- The test of `while NEED > 0` (R197): another read of the bytes still needed, or the return to the caller. -/
def rdexactLoop (point : ReadPoint) (ep : ReadEndpoint) (done : State → State) (s : State) : State :=
  if s.regs.need = 0 then done s else issueRead point ep s.regs.need.toNat s

/-- RDEXACT(ep, n) up to its first suspension point, or to its end when `n = 0` (R197). -/
def rdexactStart (point : ReadPoint) (ep : ReadEndpoint) (n : Byte) (done : State → State) (s : State) : State :=
  rdexactLoop point ep done (s.mapRegs fun r => { r with acc := [], need := n })

/-- A read of RDEXACT was answered (R197). -/
def rdexactGot (point : ReadPoint) (ep : ReadEndpoint) (done : State → State) (bytes : Bytes) (s : State) : State :=
  rdexactLoop point ep done
    (s.mapRegs fun r => { r with acc := r.acc ++ bytes, need := r.need - BitVec.ofNat 8 bytes.length })

/-! ### KECHO -/

/-- The comparison, the policy and the way on (R196, R198, R199): the next chunk after a match or a logged mismatch. -/
def echoDone (k : Nat) (s : State) : State :=
  let s' := s.mapRegs fun r => { r with echo := r.acc }
  if s'.regs.echo = s'.regs.chunk then chunkFrom (k + 1) s'
  else if echoFatal s'.cfg.echoPolicy s'.regs.kfinal then raiseError .protocolError s'
  else chunkFrom (k + 1) (logEvent ⟨k, s'.regs.chunk, s'.regs.echo⟩ s')

/-- KECHO up to its first suspension point (R196): `n` is the length of the chunk without the selector byte. -/
def beginKecho (chunk : Bytes) (bus : Byte) (k : Nat) (final : Bool) (s : State) : State :=
  rdexactStart (.ksEcho k) (.klRx bus) (BitVec.ofNat 8 chunk.length) (echoDone k)
    (s.mapRegs fun r => { r with chunk := chunk, busr := bus, kidx := k, kfinal := final })

/-- A chunk write was answered Ok (R175, R179): `final` is `k = NCH - 1`. -/
def chunkWritten (k : Nat) (s : State) : State :=
  beginKecho s.regs.chunk s.regs.busr k (decide (k + 1 = s.regs.nch)) s

/-- KECHO (R196). -/
def execKecho (chunk : Bytes) (bus : Byte) (k : Nat) (final : Bool) (s : State) : Host.Outcome State Fault Refusal :=
  .next (beginKecho chunk bus k final s)

end Sys2Proof.Machine
end

