-- ==== Sys2Proof/Machine/SerialFramer.lean ====
section
/-! DEFINITION. Unit U7, SerialFramer (45_serial_framer.md): KRECV, the rows of its header, and RDEXACT, which U6 and U7 share. -/

namespace Sys2Proof.Machine

/-- Step 4 (R215). -/
def bodyDone (s : State) : State :=
  let s' := s.mapRegs fun r => { r with body := r.acc }
  finish (.message ([s'.regs.hdr.1, s'.regs.hdr.2] ++ s'.regs.body)) s'

/-- A header with a length below 2 (R212): no partial message is returned. -/
def refuseHeader (s : State) : State := raiseError .formatError s

/-- Step 1's result (R211): the first byte to arrive, then the second. -/
def readHeader (h n : Byte) (r : Regs) : Regs := { r with hdr := (h, n) }

/-- Step 2 (R213), after the test of R212. -/
def remainderOf (r : Regs) : Regs := { r with rem := r.hdr.2 - 2 }

/-- Steps 2 and 3 after the header is in (R210, R212, R213, R214). -/
def headerDone (s : State) : State :=
  let s' := s.mapRegs fun r => readHeader (r.acc.getD 0 0) (r.acc.getD 1 0) r
  if headerIllegal s'.regs.hdr.2 then refuseHeader s'
  else
    let s'' := s'.mapRegs remainderOf
    rdexactStart .krBody (.klRx s''.regs.busr) s''.regs.rem bodyDone s''

/-- KRECV (R210): operand capture and step 1. -/
def execKrecv (bus : Byte) (s : State) : Host.Outcome State Fault Refusal :=
  .next (rdexactStart .krHdr (.klRx bus) 2 headerDone (s.mapRegs fun r => { r with busr := bus }))

/-- RDEXACT's suspension point for each caller (R197). -/
def callerPoint (caller : RdCaller) (r : Regs) : ReadPoint :=
  match caller with
  | .echo => .ksEcho r.kidx
  | .header => .krHdr
  | .body => .krBody

/-- Where RDEXACT's result goes for each caller (R34). -/
def callerDone (caller : RdCaller) (k : Nat) : State → State :=
  match caller with
  | .echo => echoDone k
  | .header => headerDone
  | .body => bodyDone

/-- RDEXACT (R197). -/
def execRdexact (ep : ReadEndpoint) (n : Byte) (caller : RdCaller) (s : State) : Host.Outcome State Fault Refusal :=
  .next (rdexactStart (callerPoint caller s.regs) ep n (callerDone caller s.regs.kidx) s)

/-- KRXMSG.HDR.LEGAL (30_encoding.md R87, R213). A length below 2 is no legal header (R212). -/
def execKrxmsgHdrLegal (h n : Byte) (s : State) : Host.Outcome State Fault Refusal :=
  let s' := s.mapRegs (readHeader h n)
  if headerIllegal n then .next (refuseHeader s') else .next (s'.mapRegs remainderOf)

/-- KRXMSG.HDR.ILLEGAL (R99, R212). -/
def execKrxmsgHdrIllegal (h : Byte) (n : BitVec 1) (s : State) : Host.Outcome State Fault Refusal :=
  .next (refuseHeader (s.mapRegs (readHeader h (n.setWidth 8))))

end Sys2Proof.Machine
end

