-- ==== Sys2Proof/Machine/Dispatch.lean ====
section
/-! DEFINITION. One arm per instruction, each a direct call of its meaning. -/

namespace Sys2Proof.Machine

def exec (i : Instr) (s : State) : Host.Outcome State Fault Refusal :=
  match i with
  | .encode address data bus => Sys2Proof.Machine.execEncode address data bus s
  | .decode slot => Sys2Proof.Machine.execDecode slot s
  | .sendmany frames => Sys2Proof.Machine.execSendmany frames s
  | .canrecv => Sys2Proof.Machine.execCanrecv s
  | .ksend message bus cs => Sys2Proof.Machine.execKsend message bus cs s
  | .krecv bus => Sys2Proof.Machine.execKrecv bus s
  | .reservedOp0 => Sys2Proof.Machine.execReservedOp0 s
  | .reservedOp7 => Sys2Proof.Machine.execReservedOp7 s
  | .reservedOp8 => Sys2Proof.Machine.execReservedOp8 s
  | .reservedOp9 => Sys2Proof.Machine.execReservedOp9 s
  | .reservedOpA => Sys2Proof.Machine.execReservedOpA s
  | .reservedOpB => Sys2Proof.Machine.execReservedOpB s
  | .reservedOpC => Sys2Proof.Machine.execReservedOpC s
  | .reservedOpD => Sys2Proof.Machine.execReservedOpD s
  | .reservedOpE => Sys2Proof.Machine.execReservedOpE s
  | .reservedOpF => Sys2Proof.Machine.execReservedOpF s
  | .wrretry ep buf => Sys2Proof.Machine.execWrretry ep buf s
  | .rdretry ep max => Sys2Proof.Machine.execRdretry ep max s
  | .kdrain bus => Sys2Proof.Machine.execKdrain bus s
  | .kecho chunk bus k final => Sys2Proof.Machine.execKecho chunk bus k final s
  | .rdexact ep n caller => Sys2Proof.Machine.execRdexact ep n caller s
  | .canslotW1Std a x y t => Sys2Proof.Machine.execCanslotW1Std a x y t s
  | .canslotW1Ext a y t => Sys2Proof.Machine.execCanslotW1Ext a y t s
  | .canslotW1StdEnc a => Sys2Proof.Machine.execCanslotW1StdEnc a s
  | .canslotW1ExtEnc a => Sys2Proof.Machine.execCanslotW1ExtEnc a s
  | .canslotW2Len0to7 c x b l => Sys2Proof.Machine.execCanslotW2Len0to7 c x b l s
  | .canslotW2Len8 c x b => Sys2Proof.Machine.execCanslotW2Len8 c x b s
  | .canslotW2Illegal9 c x b => Sys2Proof.Machine.execCanslotW2Illegal9 c x b s
  | .canslotW2Illegal10to11 c x b l => Sys2Proof.Machine.execCanslotW2Illegal10to11 c x b l s
  | .canslotW2Illegal12to15 c x b l => Sys2Proof.Machine.execCanslotW2Illegal12to15 c x b l s
  | .canslotW2Enc b l => Sys2Proof.Machine.execCanslotW2Enc b l s
  | .canslotPayload data => Sys2Proof.Machine.execCanslotPayload data s
  | .kbuf message cs => Sys2Proof.Machine.execKbuf message cs s
  | .kchunk b chunk => Sys2Proof.Machine.execKchunk b chunk s
  | .krxmsgHdrLegal h n => Sys2Proof.Machine.execKrxmsgHdrLegal h n s
  | .krxmsgHdrIllegal h n => Sys2Proof.Machine.execKrxmsgHdrIllegal h n s
  | .rsp r => Sys2Proof.Machine.execRsp r s

end Sys2Proof.Machine
end

