-- ==== Sys2Proof/Machine/Engine.lean ====
section
/-! DEFINITION. What one step does: an event of the environment is taken, a command is decoded and run, a transport answer
runs the operation's next atomic step (10_state.md R26). -/

namespace Sys2Proof.Machine

/-! ### Transport answers -/

/-- The answer to a `MemWrite` (R51): inside WRRETRY a transient one is retried (42_transport_retry.md R161); at a kline chunk
no answer is (R165, 43_kline_checksum_codec.md R180). `bytesWritten` is not looked at (20_memory.md R70). -/
def resumeWrite (point : WritePoint) (ep : WriteEndpoint) (buf : Bytes) (a : Answer) (s : State) : State :=
  match a, point with
  | .ok _, .smWr j => sendWritten j s
  | .ok _, .ksWr k => chunkWritten k s
  | .transientIOError, .smWr j => retryWrite (.smWr j) ep buf s
  | .transientIOError, .ksWr _ => raiseError .transientIOError s
  | .connectionError, _ => raiseError .connectionError s
  | .otherTransportError, _ => raiseError .otherTransportError s

/-- The bytes of a `MemRead` answered Ok go to the operation that waits. -/
def deliver (point : ReadPoint) (ep : ReadEndpoint) (bytes : Bytes) (s : State) : State :=
  match point with
  | .crRd => receiveBytes bytes s
  | .ksDrain => drainGot bytes s
  | .ksEcho k => rdexactGot (.ksEcho k) ep (echoDone k) bytes s
  | .krHdr => rdexactGot .krHdr ep headerDone bytes s
  | .krBody => rdexactGot .krBody ep bodyDone bytes s

/-- The answer to a `MemRead` (R52): retried when transient inside RDRETRY only (R162, R165, R200); an answer longer than
the request is refused (20_memory.md R69). -/
def resumeRead (point : ReadPoint) (ep : ReadEndpoint) (max : Nat) (a : Answer) (s : State) :
    Host.Outcome State Fault Refusal :=
  match a with
  | .ok n =>
    if max < (s.peek ep n).length then .refused (.overlongAnswer max (s.peek ep n).length)
    else .next (deliver point ep (s.peek ep n) (s.consume ep n))
  | .transientIOError =>
    match point with
    | .crRd => .next (retryRead .crRd ep max s)
    | .ksDrain => .next (raiseError .transientIOError s)
    | .ksEcho _ => .next (raiseError .transientIOError s)
    | .krHdr => .next (raiseError .transientIOError s)
    | .krBody => .next (raiseError .transientIOError s)
  | .connectionError => .next (raiseError .connectionError s)
  | .otherTransportError => .next (raiseError .otherTransportError s)

/-- A transport answer, under R53. With no call outstanding it answers one that a reset has forgotten and is dropped
(70_reset_and_hazards.md R261, log entry 7). -/
def resume (a : Answer) (s : State) : Host.Outcome State Fault Refusal :=
  match s.phase with
  | .idle => .next s
  | .writing point ep buf => .next (resumeWrite point ep buf (a.under s.conn) s)
  | .reading point ep max => resumeRead point ep max (a.under s.conn) s

/-! ### Commands and unit inputs -/

/-- Bytes at a port are decoded and run; bytes that are no instruction are refused by name. -/
def runBytes (port : Port) (bytes : Bytes) (s : State) : Host.Outcome State Fault Refusal :=
  match decode port bytes with
  | .ok (i, _) => exec i s
  | .error why => .refused (.undecodable why)

/-- A command (R26): taken when the block is idle, refused while an operation is in progress. -/
def takeCommand (bytes : Bytes) (s : State) : Host.Outcome State Fault Refusal :=
  match s.phase with
  | .idle => runBytes .cmd bytes s
  | .writing _ _ _ => .refused .busy
  | .reading _ _ _ => .refused .busy

/-- One event of the environment. -/
def handleEvent (e : Event) (s : State) : Host.Outcome State Fault Refusal :=
  match e with
  | .command bytes => takeCommand bytes s
  | .answer a => resume a s
  | .arrive ep bytes => .next (s.arrive ep bytes)
  | .lose ep n => .next (s.consume ep n)
  | .connect => .next { s with conn := s.conn.establish }
  | .close => .next { s with conn := s.conn.shut }
  | .reset => .next (resetBlock s)

/-- Nothing comes from the environment. The block waits, idle or at its suspension point (20_memory.md R55), but a call
that stands on a connection that is not Connected is answered ConnectionError (R53, D31, log entry 6). -/
def wait (s : State) : Host.Outcome State Fault Refusal :=
  match s.conn with
  | .connected => .next s
  | .notEstablished => resume .connectionError s
  | .closed => resume .connectionError s

/-- One step: a unit input word that stands in the latch, else the environment's next event, else waiting. When `inbox` is
used up the recurring events begin again, so a run of them has no end (42_transport_retry.md R167). -/
def advance (s : State) : Host.Outcome State Fault Refusal :=
  match s.latch with
  | some (port, bytes) => runBytes port bytes { s with latch := none }
  | none =>
    match s.upcoming with
    | e :: rest => handleEvent e { s with inbox := rest }
    | [] => wait s

/-- Bytes placed so that the next step runs exactly them: a command at the head of `inbox` with the block idle, any other
port's bytes in the latch. -/
def State.place (s : State) (port : Port) (bytes : Bytes) : State :=
  match port with
  | .cmd => { s with phase := .idle, latch := none, inbox := .command bytes :: s.inbox }
  | .word1Rx => { s with latch := some (.word1Rx, bytes) }
  | .word1Tx => { s with latch := some (.word1Tx, bytes) }
  | .word2Rx => { s with latch := some (.word2Rx, bytes) }
  | .word2Tx => { s with latch := some (.word2Tx, bytes) }
  | .kchunk => { s with latch := some (.kchunk, bytes) }
  | .krxHdr => { s with latch := some (.krxHdr, bytes) }
  | .rsp => { s with latch := some (.rsp, bytes) }

end Sys2Proof.Machine
end

