-- ==== Sys2Proof/Machine/Step.lean ====
section
/-! DEFINITION. One step of the machine, and how a bare table word is placed for the next step. -/

namespace Sys2Proof.Machine

/-- One step (10_state.md R26; Engine). -/
def step (s : State) : Host.Outcome State Fault Refusal := advance s

/-- `s` with the bytes of a bare table word where the next step takes its instruction (log entry 19). -/
def State.withFetchWord (s : State) (nbits w : Nat) : State :=
  match tableFetch nbits w with
  | some (port, bytes) => s.place port bytes
  | none => s

end Sys2Proof.Machine
end

