-- ==== Sys2Proof/Safety.lean ====
section
/-! DEFINITION. What a safe run is, in the terms the statements use: legal transport calls (20_memory.md R61, R68), legal
responses (10_state.md R29), and the invariant that holds in every state a host and a transport can bring the block to. -/

namespace Sys2Proof

/-- The rows with an `op` value (30_encoding.md R89, R102): what the host can present. -/
def Instr.hostIssuable : Instr → Bool
  | .encode _ _ _ => true
  | .decode _ => true
  | .sendmany _ => true
  | .canrecv => true
  | .ksend _ _ _ => true
  | .krecv _ => true
  | .reservedOp0 => true
  | .reservedOp7 => true
  | .reservedOp8 => true
  | .reservedOp9 => true
  | .reservedOpA => true
  | .reservedOpB => true
  | .reservedOpC => true
  | .reservedOpD => true
  | .reservedOpE => true
  | .reservedOpF => true
  | .wrretry _ _ => false
  | .rdretry _ _ => false
  | .kdrain _ => false
  | .kecho _ _ _ _ => false
  | .rdexact _ _ _ => false
  | .canslotW1Std _ _ _ _ => false
  | .canslotW1Ext _ _ _ => false
  | .canslotW1StdEnc _ => false
  | .canslotW1ExtEnc _ => false
  | .canslotW2Len0to7 _ _ _ _ => false
  | .canslotW2Len8 _ _ _ => false
  | .canslotW2Illegal9 _ _ _ => false
  | .canslotW2Illegal10to11 _ _ _ _ => false
  | .canslotW2Illegal12to15 _ _ _ _ => false
  | .canslotW2Enc _ _ => false
  | .canslotPayload _ => false
  | .kbuf _ _ => false
  | .kchunk _ _ => false
  | .krxmsgHdrLegal _ _ => false
  | .krxmsgHdrIllegal _ _ => false
  | .rsp _ => false

end Sys2Proof

namespace Sys2Proof.Machine

/-- The sizes of R61: CANRECV asks for 4096, every other read for at least one byte and, outside the drain, at most 253;
SENDMANY writes whole slots, KSEND 2 to 16 bytes. -/
def callLegal (p : Params) : Call → Bool
  | .write .canTx bytes => decide (bytes.length % 16 = 0)
  | .write .klTx bytes => decide (2 ≤ bytes.length) && decide (bytes.length ≤ 16)
  | .read .canRx max => decide (max = 4096)
  | .read (.klRx _) max => decide (1 ≤ max) && (decide (max = p.klDrainMax) || decide (max ≤ 253))

/-- SENDMANY between two writes: FRAMES were validated and stand encoded in TXBUF (R140 to R143). -/
def sendmanyHolds (r : Regs) : Prop :=
  (∀ f ∈ r.frames, f.data.length ≤ 8) ∧
    r.txbuf = r.frames.flatMap (fun f => (encodeSlot f.address f.data f.bus).toList)

/-- KSEND at chunk `k`: KBUF, NCH, KIDX and CHUNK are those of R177 to R179. -/
def ksendHolds (r : Regs) (k : Nat) : Prop :=
  r.kbuf = kbufOf r.kmsg r.csen ∧ r.nch = chunkCount r.kbuf.length ∧ k < r.nch ∧ r.kidx = k ∧
    r.chunk = chunkAt r.kbuf k

/-- RDEXACT inside its loop: `total` bytes are wanted, some still needed, and the read asks for those (R197). -/
def rdexactHolds (r : Regs) (total max : Nat) : Prop :=
  r.acc.length + r.need.toNat = total ∧ max = r.need.toNat ∧ 1 ≤ max

/-- The sequencer and the registers agree (R24, R25). -/
def phaseHolds (s : State) : Prop :=
  match s.phase with
  | .idle => True
  | .writing (.smWr j) ep buf =>
    ep = .canTx ∧ sendmanyHolds s.regs ∧ 1 ≤ s.regs.att ∧
      (if s.cfg.batch then j = 0 ∧ buf = s.regs.txbuf
       else j < s.regs.frames.length ∧ s.regs.idx = BitVec.ofNat 9 j ∧ buf = sliceAt s.regs.txbuf j)
  | .writing (.ksWr k) ep buf => ep = .klTx ∧ ksendHolds s.regs k ∧ buf = s.regs.busr :: s.regs.chunk
  | .reading .crRd ep max => ep = .canRx ∧ max = 4096 ∧ 1 ≤ s.regs.att
  | .reading .ksDrain ep max => ep = .klRx s.regs.busr ∧ max = s.cfg.klDrainMax
  | .reading (.ksEcho k) ep max =>
    ep = .klRx s.regs.busr ∧ ksendHolds s.regs k ∧ (s.regs.kfinal = true ↔ k + 1 = s.regs.nch) ∧
      rdexactHolds s.regs s.regs.chunk.length max
  | .reading .krHdr ep max => ep = .klRx s.regs.busr ∧ rdexactHolds s.regs 2 max
  | .reading .krBody ep max =>
    ep = .klRx s.regs.busr ∧ 2 ≤ s.regs.hdr.2.toNat ∧ rdexactHolds s.regs (s.regs.hdr.2.toNat - 2) max

/-- The invariant: legal parameters, canonical inbound sides, no unit input word in the latch (the host cannot put one
there, 60_exceptions.md R246), only legal calls and well-formed responses, a sequencer that agrees with the registers, and a
`klog` that is the latest of the events emitted (10_state.md R30). -/
structure Inv (s : State) : Prop where
  cfg_legal   : s.cfg.legal = true
  inbound_wf  : s.inbound.wf = true
  latch_empty : s.latch = none
  calls_legal : ∀ c ∈ s.calls, callLegal s.cfg c = true
  rsps_legal  : ∀ r ∈ s.rsps, r.wellFormed = true
  phase_holds : phaseHolds s
  log_kept    : s.klog <:+ s.logs

end Sys2Proof.Machine
end

