-- ==== Sys2Proof/Certificates/Slice0/Obligations.lean ====
section
/-! DEFINITION. The statements for the provers. What a slot, a checksum or a chunk is, is said here a second time in plain
arithmetic (namespace Spec), apart from the model's own definitions. -/

namespace Sys2Proof.Spec

/-- The `k` low bytes of a number, lowest first (00_scope.md R10). -/
def leBytes : Nat → Nat → Bytes
  | 0, _ => []
  | k + 1, n => BitVec.ofNat 8 n :: leBytes k (n / 256)

/-- The number little-endian bytes stand for (R10). -/
def leNat : Bytes → Nat
  | [] => 0
  | b :: bs => b.toNat + 256 * leNat bs

/-- `word1` of an address (40_frame_codec.md R121). -/
def word1 (a : Nat) : Nat := if a < 0x800 then a * 2 ^ 21 + 1 else a * 8 + 5

/-- `word2` of a payload length and a bus (R122). -/
def word2 (n bus : Nat) : Nat := n + 16 * bus

/-- The 16 bytes of a slot from its words and payload (R123). -/
def slotBytes (w1 w2 : Nat) (d : Bytes) : Bytes :=
  leBytes 4 w1 ++ leBytes 4 w2 ++ d ++ List.replicate (8 - d.length) 0

/-- The 16 bytes ENCODE makes of a frame (R121 to R123). -/
def encoded (a : Address) (d : Bytes) (b : Byte) : Bytes :=
  slotBytes (word1 a.toNat) (word2 d.length b.toNat) d

/-- `word1` and `word2` as DECODE reads them (R125). -/
def readW1 (b : Bytes) : Nat := leNat (b.take 4)
def readW2 (b : Bytes) : Nat := leNat ((b.drop 4).take 4)

/-- EXTENDED, LENGTH and the identifier (R126, R127). -/
def isExt (b : Bytes) : Bool := decide (readW1 b / 4 % 2 = 1)
def lenField (b : Bytes) : Nat := readW2 b % 16
def addrField (b : Bytes) : Nat := if isExt b then readW1 b / 8 else readW1 b / 2 ^ 21

/-- The frame in a slot's bytes (R126, R128). -/
def frameIn (b : Bytes) : CanFrame :=
  ⟨BitVec.ofNat 29 (addrField b), (b.drop 8).take (lenField b), BitVec.ofNat 8 (readW2 b / 16), BitVec.ofNat 16 (readW2 b / 65536)⟩

/-- What a slot's bytes decode to; `none` is FormatError (R127). -/
def decoded (b : Bytes) : Option CanFrame := if lenField b ≤ 8 then some (frameIn b) else none

/-- The whole slots of a buffer, decoded in order (41_bus_multiplexer.md R146, R147). -/
def received (buf : Bytes) : List (Option CanFrame) :=
  (List.range (buf.length / 16)).map fun i => decoded ((buf.drop (16 * i)).take 16)

/-- The sum of a message's bytes (00_scope.md R9). -/
def byteSum : Bytes → Nat
  | [] => 0
  | b :: bs => b.toNat + byteSum bs

/-- KBUF (30_encoding.md R85). -/
def kbuf (m : Bytes) (cs : Bool) : Bytes := if cs then m ++ [BitVec.ofNat 8 (byteSum m)] else m

/-- Chunk `k` of a buffer, and all of them in order (43_kline_checksum_codec.md R178). -/
def chunk (buf : Bytes) (k : Nat) : Bytes := (buf.drop (15 * k)).take 15
def chunks (buf : Bytes) : List Bytes := (List.range ((buf.length + 14) / 15)).map (chunk buf)

/-- Within a bound that may be unbounded (00_scope.md R7). -/
def within (limit : Option Nat) (n : Nat) : Prop := ∀ m, limit = some m → n ≤ m

end Sys2Proof.Spec

open Sys2Proof Sys2Proof.Machine

/-! ### FrameCodec -/

/-- R121, R122, R123: W1, W2 and the slot of a frame with at most 8 bytes, and the whole frame of ENCODE. -/
def Obligations.EncodeWritesWordsAndSlot : Prop :=
  ∀ (a : Address) (d : Bytes) (b : Byte) (s : State), d.length ≤ 8 →
    ∃ sl : Slot, sl.toList = Spec.encoded a d b ∧
      exec (.encode a d b) s = .next { s with
        phase := .idle
        rsps := s.rsps ++ [.ok (.slot sl)]
        regs := { s.regs with
          addr := a, data := d, busr := b
          w1 := BitVec.ofNat 32 (Spec.word1 a.toNat)
          w2 := BitVec.ofNat 32 (Spec.word2 d.length b.toNat)
          slot := sl } }

/-- R120 (decision D6 for ENCODE on its own): more than 8 bytes end ENCODE with CallerError and no slot. -/
def Obligations.EncodeOfLongPayloadIsCallerError : Prop :=
  ∀ (a : Address) (d : Bytes) (b : Byte) (s : State), 8 < d.length →
    exec (.encode a d b) s = .next { s with
      phase := .idle
      rsps := s.rsps ++ [.error .callerError]
      regs := { s.regs with addr := a, data := d, busr := b } }

/-- R126, R128: the fields of a slot with a legal length, and the whole frame of DECODE. -/
def Obligations.DecodeReadsEveryField : Prop :=
  ∀ (sl : Slot) (s : State), Spec.lenField sl.toList ≤ 8 →
    exec (.decode sl) s = .next { s with
      phase := .idle
      rsps := s.rsps ++ [.ok (.frame (Spec.frameIn sl.toList))]
      regs := { s.regs with
        slot := sl
        w1 := BitVec.ofNat 32 (Spec.readW1 sl.toList)
        ext := Spec.isExt sl.toList
        addr := (Spec.frameIn sl.toList).address
        w2 := BitVec.ofNat 32 (Spec.readW2 sl.toList)
        len := BitVec.ofNat 4 (Spec.lenField sl.toList)
        data := (Spec.frameIn sl.toList).data
        busr := (Spec.frameIn sl.toList).bus
        ctr := (Spec.frameIn sl.toList).counter } }

/-- R127: a length of 9 to 15 ends DECODE with FormatError and delivers nothing of the slot. -/
def Obligations.DecodeOfIllegalLengthIsFormatError : Prop :=
  ∀ (sl : Slot) (s : State), 8 < Spec.lenField sl.toList →
    exec (.decode sl) s = .next { s with
      phase := .idle
      rsps := s.rsps ++ [.error .formatError]
      regs := { s.regs with
        slot := sl
        w1 := BitVec.ofNat 32 (Spec.readW1 sl.toList)
        ext := Spec.isExt sl.toList
        addr := BitVec.ofNat 29 (Spec.addrField sl.toList)
        w2 := BitVec.ofNat 32 (Spec.readW2 sl.toList)
        len := BitVec.ofNat 4 (Spec.lenField sl.toList) } }

/-- R130: DECODE of what ENCODE made gives the frame back with counter 0. -/
def Obligations.DecodeOfEncodeGivesTheFrame : Prop :=
  ∀ (a : Address) (d : Bytes) (b : Byte) (s : State), d.length ≤ 8 →
    ∃ (sl : Slot) (t u : State), exec (.encode a d b) s = .next t ∧ t.rsps = s.rsps ++ [.ok (.slot sl)] ∧
      exec (.decode sl) t = .next u ∧ u.rsps = t.rsps ++ [.ok (.frame ⟨a, d, b, 0⟩)]

/-- R131: 0x7FF is encoded in the standard form, 0x800 in the extended one, and both come back. -/
def Obligations.FormBoundaryAt7FFAnd800 : Prop :=
  ∀ (d : Bytes) (b : Byte) (s : State), d.length ≤ 8 →
    (∃ (sl : Slot) (t u : State), exec (.encode 0x7FF d b) s = .next t ∧ t.rsps = s.rsps ++ [.ok (.slot sl)] ∧
      t.regs.w1.getLsbD 2 = false ∧ exec (.decode sl) t = .next u ∧ u.regs.ext = false ∧ u.regs.addr = 0x7FF) ∧
    (∃ (sl : Slot) (t u : State), exec (.encode 0x800 d b) s = .next t ∧ t.rsps = s.rsps ++ [.ok (.slot sl)] ∧
      t.regs.w1.getLsbD 2 = true ∧ exec (.decode sl) t = .next u ∧ u.regs.ext = true ∧ u.regs.addr = 0x800)

/-- R100: slots that differ only in the places DECODE does not read get the same response. -/
def Obligations.DecodeIgnoresUnreadPlaces : Prop :=
  ∀ (p q : Slot) (s : State),
    Spec.isExt p.toList = Spec.isExt q.toList → Spec.addrField p.toList = Spec.addrField q.toList →
    Spec.readW2 p.toList % 4096 = Spec.readW2 q.toList % 4096 →
    Spec.readW2 p.toList / 65536 = Spec.readW2 q.toList / 65536 →
    (p.toList.drop 8).take (Spec.lenField p.toList) = (q.toList.drop 8).take (Spec.lenField p.toList) →
    ∃ t u : State, exec (.decode p) s = .next t ∧ exec (.decode q) s = .next u ∧ t.rsps = u.rsps

/-- R132: encoding a decoded slot gives the slot back exactly when it is one that ENCODE writes. -/
def Obligations.ReencodeIsIdentityExactlyOnImages : Prop :=
  ∀ (sl : Slot) (s : State), Spec.lenField sl.toList ≤ 8 →
    ∃ (sl' : Slot) (t : State),
      exec (.encode (Spec.frameIn sl.toList).address (Spec.frameIn sl.toList).data (Spec.frameIn sl.toList).bus) s = .next t ∧
      t.rsps = s.rsps ++ [.ok (.slot sl')] ∧
      (sl' = sl ↔
        Spec.readW1 sl.toList % 2 = 1 ∧ Spec.readW1 sl.toList / 2 % 2 = 0 ∧
        (Spec.isExt sl.toList = false → Spec.readW1 sl.toList / 8 % 2 ^ 18 = 0) ∧
        Spec.readW2 sl.toList / 4096 = 0 ∧
        (∀ x ∈ sl.toList.drop (8 + Spec.lenField sl.toList), x = 0) ∧
        (Spec.isExt sl.toList = true ↔ 0x800 ≤ Spec.addrField sl.toList))

/-- R120 to R123: ENCODE is its image rows run one after the other, and then its response. -/
def Obligations.EncodeIsItsImageRows : Prop :=
  ∀ (a : Address) (d : Bytes) (b : Byte) (s : State), d.length ≤ 8 →
    ∃ t1 t2 t3 t4 t : State,
      exec (if a.toNat < 0x800 then .canslotW1StdEnc (a.setWidth 11) else .canslotW1ExtEnc a) s = .next t1 ∧
      exec (.canslotW2Enc b (BitVec.ofNat 4 d.length)) t1 = .next t2 ∧
      exec (.canslotPayload d) t2 = .next t3 ∧
      exec (.rsp (.ok (.slot t3.regs.slot))) t3 = .next t4 ∧
      exec (.encode a d b) s = .next t ∧
      t = { t4 with regs := { t4.regs with addr := a, data := d, busr := b } }

/-- R125 to R128: DECODE is the decode cases of its two words run one after the other on the captured slot. -/
def Obligations.DecodeIsItsCaseRows : Prop :=
  ∀ (sl : Slot) (s : State),
    ∃ (i1 i2 : Instr) (t1 t2 t : State),
      decode .word1Rx (sl.toList.take 4) = .ok (i1, []) ∧
      decode .word2Rx ((sl.toList.drop 4).take 4) = .ok (i2, []) ∧
      exec i1 { s with regs := { s.regs with slot := sl } } = .next t1 ∧
      exec i2 t1 = .next t2 ∧
      exec (.decode sl) s = .next t ∧
      t.regs = t2.regs ∧
      (8 < Spec.lenField sl.toList → t = t2) ∧
      (Spec.lenField sl.toList ≤ 8 →
        exec (.rsp (.ok (.frame ⟨t2.regs.addr, t2.regs.data, t2.regs.busr, t2.regs.ctr⟩))) t2 = .next t)

/-- R82, R83, R126: the rows of `word1` take the identifier and the form; nothing else changes. -/
def Obligations.Word1CasesTakeTheIdentifier : Prop :=
  (∀ (a : BitVec 11) (x : BitVec 18) (y t : BitVec 1) (s : State),
    exec (.canslotW1Std a x y t) s = .next { s with regs := { s.regs with
      w1 := BitVec.ofNat 32 (a.toNat * 2 ^ 21 + x.toNat * 8 + y.toNat * 2 + t.toNat)
      ext := false
      addr := BitVec.ofNat 29 a.toNat } }) ∧
  (∀ (a : BitVec 29) (y t : BitVec 1) (s : State),
    exec (.canslotW1Ext a y t) s = .next { s with regs := { s.regs with
      w1 := BitVec.ofNat 32 (a.toNat * 8 + 4 + y.toNat * 2 + t.toNat)
      ext := true
      addr := a } })

/-- R84, R128: the legal rows of `word2` take payload, bus and counter; nothing else changes. -/
def Obligations.Word2LegalCasesTakeTheFields : Prop :=
  (∀ (c : BitVec 16) (x : BitVec 4) (b : Byte) (l : BitVec 3) (s : State),
    exec (.canslotW2Len0to7 c x b l) s = .next { s with regs := { s.regs with
      w2 := BitVec.ofNat 32 (c.toNat * 65536 + x.toNat * 4096 + b.toNat * 16 + l.toNat)
      len := BitVec.ofNat 4 l.toNat
      data := (s.regs.slot.toList.drop 8).take l.toNat
      busr := b
      ctr := c } }) ∧
  (∀ (c : BitVec 16) (x : BitVec 4) (b : Byte) (s : State),
    exec (.canslotW2Len8 c x b) s = .next { s with regs := { s.regs with
      w2 := BitVec.ofNat 32 (c.toNat * 65536 + x.toNat * 4096 + b.toNat * 16 + 8)
      len := 8
      data := s.regs.slot.toList.drop 8
      busr := b
      ctr := c } })

/-- R98, R127, R230: the illegal rows of `word2` end the operation with FormatError; nothing of the slot is taken. -/
def Obligations.Word2IllegalCasesRaiseFormatError : Prop :=
  ∀ (i : Instr) (c : BitVec 16) (x : BitVec 4) (b : Byte) (n : Nat) (s : State),
    ((i = .canslotW2Illegal9 c x b ∧ n = 9) ∨
      (∃ l : BitVec 1, i = .canslotW2Illegal10to11 c x b l ∧ n = 10 + l.toNat) ∨
      (∃ l : BitVec 2, i = .canslotW2Illegal12to15 c x b l ∧ n = 12 + l.toNat)) →
    exec i s = .next { s with
      phase := .idle
      rsps := s.rsps ++ [.error .formatError]
      regs := { s.regs with
        w2 := BitVec.ofNat 32 (c.toNat * 65536 + x.toNat * 4096 + b.toNat * 16 + n)
        len := BitVec.ofNat 4 n } }

/-- R121, R122, R123, and log entries 12 (a format row is an instruction) and 23: each image row writes the word its pattern
gives its operands, and the payload row the slot; nothing else changes. For an identifier of 0x800 or more and a LENGTH of 0 to
8 that is the word ENCODE writes; that EXT.ENC also takes an identifier below 0x800 and W2.ENC's meaning a LENGTH of 9 to 15,
for words ENCODE never writes (R91, R101), is the model's choice, log entry 23. -/
def Obligations.ImageRowsWriteTheWords : Prop :=
  (∀ (a : BitVec 11) (s : State),
    exec (.canslotW1StdEnc a) s = .next { s with regs := { s.regs with w1 := BitVec.ofNat 32 (a.toNat * 2 ^ 21 + 1) } }) ∧
  (∀ (a : BitVec 29) (s : State),
    exec (.canslotW1ExtEnc a) s = .next { s with regs := { s.regs with w1 := BitVec.ofNat 32 (a.toNat * 8 + 5) } }) ∧
  (∀ (b : Byte) (l : BitVec 4) (s : State),
    exec (.canslotW2Enc b l) s = .next { s with regs := { s.regs with w2 := BitVec.ofNat 32 (l.toNat + 16 * b.toNat) } }) ∧
  (∀ (d : Bytes) (s : State), d.length ≤ 8 →
    ∃ sl : Slot, sl.toList = Spec.slotBytes s.regs.w1.toNat s.regs.w2.toNat d ∧
      exec (.canslotPayload d) s = .next { s with regs := { s.regs with slot := sl } })

/-! ### BusMultiplexer -/

/-- R141: one frame with more than 8 bytes rejects the whole SENDMANY before any transport call, whatever the connection and
whatever BATCH; the payload length is the only test. -/
def Obligations.SendManyValidatesBeforeTraffic : Prop :=
  ∀ (fs : List TxFrame) (s : State), Spec.within s.cfg.txFramesMax fs.length →
    ((∃ f ∈ fs, 8 < f.data.length) → exec (.sendmany fs) s = .next { s with
      phase := .idle
      rsps := s.rsps ++ [.error .callerError]
      regs := { s.regs with frames := fs } }) ∧
    ((∀ f ∈ fs, f.data.length ≤ 8) →
      ∃ t : State, exec (.sendmany fs) s = .next t ∧ (t.rsps = s.rsps ∨ t.rsps = s.rsps ++ [.ok .nothing]))

/-- R142, R143 with BATCH true: one write of the concatenation, and when it is answered Ok, whatever count that reports,
SENDMANY ends OK; the registers of the other units stay. No frame is a write of no bytes (R144, the spec's decision D27). -/
def Obligations.SendManyBatchedIssuesOneWrite : Prop :=
  (∀ (fs : List TxFrame) (s : State), Spec.within s.cfg.txFramesMax fs.length → (∀ f ∈ fs, f.data.length ≤ 8) →
    s.cfg.batch = true →
    ∃ (buf : Bytes) (r : Regs), buf = fs.flatMap (fun f => Spec.encoded f.address f.data f.bus) ∧
      exec (.sendmany fs) s = .next { s with
        phase := .writing (.smWr 0) .canTx buf
        calls := s.calls ++ [.write .canTx buf]
        regs := { s.regs with
          addr := r.addr, data := r.data, busr := r.busr, w1 := r.w1, w2 := r.w2, slot := r.slot, idx := r.idx
          frames := fs, txbuf := buf, att := 1 } }) ∧
  (∀ (j n : Nat) (ep : WriteEndpoint) (buf : Bytes) (rest : List Event) (s : State),
    s.cfg.batch = true → s.latch = none → s.conn = .connected → s.phase = .writing (.smWr j) ep buf →
    s.inbox = .answer (.ok n) :: rest →
    step s = .next { s with inbox := rest, phase := .idle, rsps := s.rsps ++ [.ok .nothing] })

/-- R142, R143 with BATCH false: the first write is slot 0 alone; with no frame there is none (R144, decision D27).
That TXBUF is written with BATCH false too is the model's reading, log entry 21. -/
def Obligations.SendManyUnbatchedStartsWithSlotZero : Prop :=
  ∀ (fs : List TxFrame) (s : State), Spec.within s.cfg.txFramesMax fs.length → (∀ f ∈ fs, f.data.length ≤ 8) →
    s.cfg.batch = false →
    (∀ (f : TxFrame) (rest : List TxFrame), fs = f :: rest →
      ∃ r : Regs, exec (.sendmany fs) s = .next { s with
        phase := .writing (.smWr 0) .canTx (Spec.encoded f.address f.data f.bus)
        calls := s.calls ++ [.write .canTx (Spec.encoded f.address f.data f.bus)]
        regs := { s.regs with
          addr := r.addr, data := r.data, busr := r.busr, w1 := r.w1, w2 := r.w2, slot := r.slot, idx := 0
          frames := fs, txbuf := fs.flatMap (fun f => Spec.encoded f.address f.data f.bus), att := 1 } }) ∧
    (fs = [] → exec (.sendmany fs) s = .next { s with
      phase := .idle
      rsps := s.rsps ++ [.ok .nothing]
      regs := { s.regs with frames := [], txbuf := [] } })

/-- R143: with BATCH false and every write answered Ok, whatever byte count it reports, SENDMANY makes one write per slot, in
input order, and ends OK; with no frame it makes none (R144, the spec's decision D27). -/
def Obligations.SendManyUnbatchedWritesEverySlotInOrder : Prop :=
  ∀ (fs : List TxFrame) (counts : List Nat) (bytes : Bytes) (rest : List Event) (s : State),
    Spec.within s.cfg.txFramesMax fs.length → (∀ f ∈ fs, f.data.length ≤ 8) → s.cfg.batch = false →
    s.phase = .idle → s.latch = none → s.conn = .connected → counts.length = fs.length →
    decode .cmd bytes = .ok (.sendmany fs, []) →
    s.inbox = .command bytes :: (counts.map (fun n => Event.answer (.ok n)) ++ rest) →
    ∃ t : State, Host.Core.run core (fs.length + 1) s = .next t ∧ t.phase = .idle ∧
      t.rsps = s.rsps ++ [.ok .nothing] ∧
      t.calls = s.calls ++ fs.map (fun f => Call.write .canTx (Spec.encoded f.address f.data f.bus)) ∧
      t.inbox = rest ∧ t.klog = s.klog ∧ t.logs = s.logs ∧ t.inbound = s.inbound ∧ t.conn = s.conn ∧ t.cfg = s.cfg

/-- R145: CANRECV asks once for up to 4096 bytes. -/
def Obligations.CanrecvAsksForFullRead : Prop :=
  ∀ s : State, exec .canrecv s = .next { s with
    phase := .reading .crRd .canRx 4096
    calls := s.calls ++ [.read .canRx 4096]
    regs := { s.regs with att := 1 } }

/-- R146, R147, R148 with DROP (the spec's decision D10): the frames of the whole slots in order, the failed ones left out
and counted; the partial tail is gone; the registers of the other units stay. -/
def Obligations.CanrecvDropsFailedSlots : Prop :=
  ∀ (n : Nat) (rest : List Event) (buf : Bytes) (s : State),
    s.latch = none → s.conn = .connected → s.phase = .reading .crRd .canRx 4096 → s.inbox = .answer (.ok n) :: rest →
    buf = (s.inbound.waiting .canRx).take n → buf.length ≤ 4096 → s.cfg.rxErrPolicy = .drop →
    ∃ r : Regs, step s = .next { s with
      phase := .idle
      inbox := rest
      inbound := s.inbound.put .canRx ((s.inbound.waiting .canRx).drop n)
      rsps := s.rsps ++ [.ok (.frames ((Spec.received buf).filterMap id) ((Spec.received buf).filter Option.isNone).length)]
      regs := { s.regs with
        addr := r.addr, busr := r.busr, data := r.data, w1 := r.w1, w2 := r.w2, slot := r.slot, ext := r.ext
        len := r.len, ctr := r.ctr, idx := r.idx, rxbuf := buf, nslot := BitVec.ofNat 9 (buf.length / 16) } }

/-- R148 with ABORT (decision D10): one failed slot ends CANRECV with FormatError and no frame; with none it ends as under
DROP. -/
def Obligations.CanrecvAbortsOnFailedSlot : Prop :=
  ∀ (n : Nat) (rest : List Event) (buf : Bytes) (s : State),
    s.latch = none → s.conn = .connected → s.phase = .reading .crRd .canRx 4096 → s.inbox = .answer (.ok n) :: rest →
    buf = (s.inbound.waiting .canRx).take n → buf.length ≤ 4096 → s.cfg.rxErrPolicy = .abort →
    ∃ t : State, step s = .next t ∧ t.phase = .idle ∧ t.inbox = rest ∧
      t.rsps = s.rsps ++ [if none ∈ Spec.received buf then .error .formatError
        else .ok (.frames ((Spec.received buf).filterMap id) 0)]

/-- R150, R151: bytes that SENDMANY's single write would carry, read back by one CANRECV, give the same frames in the same
order with counter 0, under either policy. -/
def Obligations.MultiplexingKeepsOrder : Prop :=
  ∀ (fs : List TxFrame) (n : Nat) (rest : List Event) (s : State),
    fs.length ≤ 256 → (∀ f ∈ fs, f.data.length ≤ 8) →
    s.latch = none → s.conn = .connected → s.phase = .reading .crRd .canRx 4096 → s.inbox = .answer (.ok n) :: rest →
    (s.inbound.waiting .canRx).take n = fs.flatMap (fun f => Spec.encoded f.address f.data f.bus) →
    ∃ t : State, step s = .next t ∧ t.phase = .idle ∧
      t.rsps = s.rsps ++ [.ok (.frames (fs.map fun f => ⟨f.address, f.data, f.bus, 0⟩) 0)]

/-! ### TransportRetry -/

/-- R161, R162: each begins with ATT 1 and one call, at its suspension point; nothing else changes. That WRRETRY run alone
stands at SM_WR(IDX) is the model's reading, log entry 12. -/
def Obligations.RetryUnitsIssueTheirCall : Prop :=
  (∀ (ep : WriteEndpoint) (buf : Bytes) (s : State),
    exec (.wrretry ep buf) s = .next { s with
      phase := .writing (.smWr s.regs.idx.toNat) ep buf
      calls := s.calls ++ [.write ep buf]
      regs := { s.regs with att := 1 } }) ∧
  (∀ (ep : ReadEndpoint) (max : Nat) (s : State), 1 ≤ max →
    exec (.rdretry ep max) s = .next { s with
      phase := .reading .crRd ep max
      calls := s.calls ++ [.read ep max]
      regs := { s.regs with att := 1 } })

/-- R163: after `k` transient answers a logical write stands at its `k + 1`st call of the whole buffer, a logical read at its
`k + 1`st call of the same size, and nothing else has changed; the next answer Ok ends it. `k` is below a bounded
RETRY_LIMIT. R167: with no limit and transient answers for ever, so it stands after any number of steps. The suspension point
of WRRETRY run alone, SM_WR(IDX), and its way on are the model's reading, log entry 12; the endless answers are the model's
`recurring`, log entry 4. -/
def Obligations.TransientAnswersCostOneCallEach : Prop :=
  (∀ (k n : Nat) (rest : List Event) (s : State),
    (∀ m, s.cfg.retryLimit = some m → k < m) → s.latch = none → s.conn = .connected →
    s.inbox = List.replicate k (.answer .transientIOError) ++ .answer (.ok n) :: rest →
    (∀ (ep : WriteEndpoint) (buf : Bytes), ∃ s1 t u : State,
      exec (.wrretry ep buf) s = .next s1 ∧ Host.Core.run core k s1 = .next t ∧ step t = .next u ∧
      t = { s with
        inbox := .answer (.ok n) :: rest
        phase := .writing (.smWr s.regs.idx.toNat) ep buf
        calls := s.calls ++ List.replicate (k + 1) (.write ep buf)
        regs := { s.regs with att := k + 1 } } ∧
      ((u.phase = .idle ∧ u.calls = t.calls) ∨
        ∃ bytes, u.phase = .writing (.smWr (s.regs.idx.toNat + 1)) .canTx bytes ∧
          u.calls = t.calls ++ [.write .canTx bytes])) ∧
    (∀ (ep : ReadEndpoint) (max : Nat), 1 ≤ max → ((s.inbound.waiting ep).take n).length ≤ max → ∃ s1 t u : State,
      exec (.rdretry ep max) s = .next s1 ∧ Host.Core.run core k s1 = .next t ∧ step t = .next u ∧
      t = { s with
        inbox := .answer (.ok n) :: rest
        phase := .reading .crRd ep max
        calls := s.calls ++ List.replicate (k + 1) (.read ep max)
        regs := { s.regs with att := k + 1 } } ∧
      u.phase = .idle ∧ u.calls = t.calls)) ∧
  (∀ (k : Nat) (s : State), s.cfg.retryLimit = none → s.latch = none → s.conn = .connected →
    s.inbox = [] → s.recurring = [.answer .transientIOError] →
    (∀ (ep : WriteEndpoint) (buf : Bytes), ∃ s1 : State, exec (.wrretry ep buf) s = .next s1 ∧
      Host.Core.run core k s1 = .next { s with
        phase := .writing (.smWr s.regs.idx.toNat) ep buf
        calls := s.calls ++ List.replicate (k + 1) (.write ep buf)
        regs := { s.regs with att := k + 1 } }) ∧
    (∀ (ep : ReadEndpoint) (max : Nat), 1 ≤ max → ∃ s1 : State, exec (.rdretry ep max) s = .next s1 ∧
      Host.Core.run core k s1 = .next { s with
        phase := .reading .crRd ep max
        calls := s.calls ++ List.replicate (k + 1) (.read ep max)
        regs := { s.regs with att := k + 1 } }))

/-- R164 (decision D12): with RETRY_LIMIT N, N transient answers to a logical write or a logical read, CANRECV's among them,
are N calls and then TransientIOError; and at any SM_WR(j) and at CR_RD the answer that uses the limit up ends the operation
so, while one below it repeats the call. That a unit run alone ends as its caller would is log entry 12. -/
def Obligations.BoundedRetryGivesUp : Prop :=
  (∀ (n : Nat) (rest : List Event) (i : Instr) (c : Call) (s : State),
    s.cfg.retryLimit = some (n + 1) → s.latch = none → s.conn = .connected →
    s.inbox = List.replicate (n + 1) (.answer .transientIOError) ++ rest →
    ((∃ ep buf, i = .wrretry ep buf ∧ c = .write ep buf) ∨ (∃ ep max, i = .rdretry ep max ∧ 1 ≤ max ∧ c = .read ep max) ∨
      (i = .canrecv ∧ c = .read .canRx 4096)) →
    ∃ s1 : State, exec i s = .next s1 ∧ Host.Core.run core (n + 1) s1 = .next { s with
      inbox := rest
      phase := .idle
      calls := s.calls ++ List.replicate (n + 1) c
      rsps := s.rsps ++ [.error .transientIOError]
      regs := { s.regs with att := n + 1 } }) ∧
  (∀ (m : Nat) (rest : List Event) (c : Call) (s : State),
    s.cfg.retryLimit = some m → s.latch = none → s.conn = .connected → s.inbox = .answer .transientIOError :: rest →
    ((∃ j ep buf, s.phase = .writing (.smWr j) ep buf ∧ c = .write ep buf) ∨
      (∃ ep max, s.phase = .reading .crRd ep max ∧ c = .read ep max)) →
    (m ≤ s.regs.att → step s = .next { s with
      inbox := rest, phase := .idle, rsps := s.rsps ++ [.error .transientIOError] }) ∧
    (s.regs.att < m → step s = .next { s with
      inbox := rest, calls := s.calls ++ [c], regs := { s.regs with att := s.regs.att + 1 } }))

/-- R161, R162, R230 (decision D32): a fatal answer to a CAN call ends the operation with its own kind, with no further call;
what was written before stays written. -/
def Obligations.CanErrorsEndTheOperation : Prop :=
  ∀ (a : Answer) (kind : ErrorKind) (rest : List Event) (s : State),
    s.latch = none → s.conn = .connected → s.inbox = .answer a :: rest →
    ((a = .connectionError ∧ kind = .connectionError) ∨ (a = .otherTransportError ∧ kind = .otherTransportError)) →
    ((∃ j ep buf, s.phase = .writing (.smWr j) ep buf) ∨ (∃ ep max, s.phase = .reading .crRd ep max)) →
    step s = .next { s with inbox := rest, phase := .idle, rsps := s.rsps ++ [.error kind] }

/-! ### KlineChecksumCodec -/

/-- R175, R176 (decision D13): KSEND captures its operands and drains first; KDRAIN is that drain's first read. -/
def Obligations.KsendBeginsWithTheDrain : Prop :=
  (∀ (m : Bytes) (b : Byte) (cs : Bool) (s : State), Spec.within s.cfg.ksendMax m.length →
    exec (.ksend m b cs) s = .next { s with
      phase := .reading .ksDrain (.klRx b) s.cfg.klDrainMax
      calls := s.calls ++ [.read (.klRx b) s.cfg.klDrainMax]
      regs := { s.regs with kmsg := m, csen := cs, busr := b } }) ∧
  (∀ (b : Byte) (s : State),
    exec (.kdrain b) s = .next { s with
      phase := .reading .ksDrain (.klRx b) s.cfg.klDrainMax
      calls := s.calls ++ [.read (.klRx b) s.cfg.klDrainMax]
      regs := { s.regs with busr := b } })

/-- R176 (decisions D13, D14, D15): a drain read that brings bytes discards them and is made again; R177, R178, R179: one
that brings none goes on to KBUF and the first chunk, or to the end when KBUF is empty. -/
def Obligations.DrainEndsOnAnEmptyRead : Prop :=
  ∀ (n : Nat) (rest : List Event) (buf : Bytes) (s : State),
    s.latch = none → s.conn = .connected → s.phase = .reading .ksDrain (.klRx s.regs.busr) s.cfg.klDrainMax →
    s.inbox = .answer (.ok n) :: rest → buf = (s.inbound.waiting (.klRx s.regs.busr)).take n →
    buf.length ≤ s.cfg.klDrainMax →
    ∃ (sr : State) (r : Regs),
      sr = { s with
        inbox := rest
        inbound := s.inbound.put (.klRx s.regs.busr) ((s.inbound.waiting (.klRx s.regs.busr)).drop n) } ∧
      r = { s.regs with
        csum := if s.regs.csen then BitVec.ofNat 8 (Spec.byteSum s.regs.kmsg) else s.regs.csum
        kbuf := Spec.kbuf s.regs.kmsg s.regs.csen
        nch := ((Spec.kbuf s.regs.kmsg s.regs.csen).length + 14) / 15 } ∧
      (buf ≠ [] → step s = .next { sr with calls := s.calls ++ [.read (.klRx s.regs.busr) s.cfg.klDrainMax] }) ∧
      (buf = [] → r.kbuf ≠ [] → step s = .next { sr with
        phase := .writing (.ksWr 0) .klTx (s.regs.busr :: r.kbuf.take 15)
        calls := s.calls ++ [.write .klTx (s.regs.busr :: r.kbuf.take 15)]
        regs := { r with kidx := 0, chunk := r.kbuf.take 15 } }) ∧
      (buf = [] → r.kbuf = [] → step s = .next { sr with
        phase := .idle
        rsps := s.rsps ++ [.ok .nothing]
        regs := r })

/-- R177, R183: KBUF is the message and, with the checksum enabled, one byte that is the sum of all before it modulo 256;
without it CSUM is not written. The row KBUF as an instruction that stops there is the model's reading, log entry 12. -/
def Obligations.ChecksumIsTheSumModulo256 : Prop :=
  ∀ (m : Bytes) (s : State),
    (∃ c : Byte, c.toNat = Spec.byteSum m % 256 ∧
      exec (.kbuf m true) s = .next { s with regs := { s.regs with
        kmsg := m, csen := true, csum := c, kbuf := m ++ [c] } }) ∧
    exec (.kbuf m false) s = .next { s with regs := { s.regs with kmsg := m, csen := false, kbuf := m } }

/-- R94: the checksum is the low 8 bits of the sum, and an 8-bit accumulator that adds each byte and drops the carry gives
the same. Said of the row KBUF as an instruction, the model's reading, log entry 12. -/
def Obligations.ChecksumIsAnEightBitAccumulator : Prop :=
  ∀ (m : Bytes) (s : State), ∃ t : State, exec (.kbuf m true) s = .next t ∧ t.regs.csum.toNat = Spec.byteSum m % 256 ∧
    t.regs.csum = m.foldl (· + ·) 0

/-- R86, R179 (decision D15): a chunk goes out behind its selector byte as one write, at the current chunk index. -/
def Obligations.ChunkGoesOutBehindItsSelector : Prop :=
  ∀ (b : Byte) (c : Bytes) (s : State), 1 ≤ c.length → c.length ≤ 15 →
    exec (.kchunk b c) s = .next { s with
      phase := .writing (.ksWr s.regs.kidx) .klTx (b :: c)
      calls := s.calls ++ [.write .klTx (b :: c)]
      regs := { s.regs with chunk := c, busr := b } }

/-- R177 to R179, R184, R196, with the spec's own decisions D13 to D16 (the drain's end, the cut at 15, the selector byte,
the size of an echo read): when the inbound side is empty and every chunk is echoed as sent, KSEND makes one drain read, then
for each chunk in order one write and one echo read, logs nothing and ends OK; and the chunks put together are KBUF. An empty
KBUF has no chunk (R181, decision D27). -/
def Obligations.KsendWithTrueEchoesSendsKbuf : Prop :=
  ∀ (m : Bytes) (b : Byte) (cs : Bool) (bytes : Bytes) (d w : Nat) (evs rest : List Event) (s : State),
    Spec.within s.cfg.ksendMax m.length → s.phase = .idle → s.latch = none → s.conn = .connected →
    s.inbound.wf = true → s.inbound.waiting (.klRx b) = [] →
    decode .cmd bytes = .ok (.ksend m b cs, []) →
    evs = .command bytes :: .answer (.ok d) ::
      (Spec.chunks (Spec.kbuf m cs)).flatMap
        (fun c => [.answer (.ok w), .arrive (.klRx b) c, .answer (.ok c.length)]) →
    s.inbox = evs ++ rest →
    (Spec.chunks (Spec.kbuf m cs)).flatten = Spec.kbuf m cs ∧
    ∃ t : State, Host.Core.run core evs.length s = .next t ∧ t.phase = .idle ∧
      t.rsps = s.rsps ++ [.ok .nothing] ∧
      t.calls = s.calls ++ .read (.klRx b) s.cfg.klDrainMax ::
        (Spec.chunks (Spec.kbuf m cs)).flatMap (fun c => [.write .klTx (b :: c), .read (.klRx b) c.length]) ∧
      t.klog = s.klog ∧ t.logs = s.logs ∧ t.inbox = rest ∧ t.conn = s.conn ∧ t.cfg = s.cfg ∧
      ∀ ep, t.inbound.waiting ep = s.inbound.waiting ep

/-! ### KlineEchoVerifier -/

/-- R196, R197 (decision D16): KECHO keeps its operands and asks for as many bytes as the chunk has, without the selector
byte. -/
def Obligations.KechoAsksForTheChunkLength : Prop :=
  ∀ (c : Bytes) (b : Byte) (k : Nat) (final : Bool) (s : State), 1 ≤ c.length → c.length ≤ 15 →
    exec (.kecho c b k final) s = .next { s with
      phase := .reading (.ksEcho k) (.klRx b) c.length
      calls := s.calls ++ [.read (.klRx b) c.length]
      regs := { s.regs with
        chunk := c, busr := b, kidx := k, kfinal := final, acc := [], need := BitVec.ofNat 8 c.length } }

/-- R175, R179 (decision D16): after a chunk write answered Ok, whatever count it reports, the echo of that chunk is asked
for, and `final` is set for the last chunk alone. -/
def Obligations.ChunkWriteIsFollowedByItsEcho : Prop :=
  ∀ (k n : Nat) (ep : WriteEndpoint) (buf : Bytes) (rest : List Event) (s : State),
    s.latch = none → s.conn = .connected → s.phase = .writing (.ksWr k) ep buf → s.inbox = .answer (.ok n) :: rest →
    1 ≤ s.regs.chunk.length → s.regs.chunk.length ≤ 15 →
    step s = .next { s with
      inbox := rest
      phase := .reading (.ksEcho k) (.klRx s.regs.busr) s.regs.chunk.length
      calls := s.calls ++ [.read (.klRx s.regs.busr) s.regs.chunk.length]
      regs := { s.regs with
        kidx := k, kfinal := decide (k + 1 = s.regs.nch), acc := [], need := BitVec.ofNat 8 s.regs.chunk.length } }

/-- R197 (decision D16): RDEXACT with bytes to collect asks for all of them; with none it asks for nothing, and KRECV's
remainder is then empty. -/
def Obligations.RdexactAsksForAllItNeeds : Prop :=
  (∀ (ep : ReadEndpoint) (n : Byte) (c : RdCaller) (s : State), n.toNat ≤ 253 → n ≠ 0 →
    ∃ p : ReadPoint,
      ((c = .echo ∧ p = .ksEcho s.regs.kidx) ∨ (c = .header ∧ p = .krHdr) ∨ (c = .body ∧ p = .krBody)) ∧
      exec (.rdexact ep n c) s = .next { s with
        phase := .reading p ep n.toNat
        calls := s.calls ++ [.read ep n.toNat]
        regs := { s.regs with acc := [], need := n } }) ∧
  (∀ (ep : ReadEndpoint) (s : State),
    exec (.rdexact ep 0 .body) s = .next { s with
      phase := .idle
      rsps := s.rsps ++ [.ok (.message [s.regs.hdr.1, s.regs.hdr.2])]
      regs := { s.regs with acc := [], need := 0, body := [] } })

/-- R197 (decision D16): an answer that brings fewer bytes than are needed is kept and the rest is asked for, at each of the
three suspension points; an empty answer changes nothing but the call made again. -/
def Obligations.RdexactAsksAgainForTheRest : Prop :=
  ∀ (p : ReadPoint) (ep : ReadEndpoint) (n : Nat) (rest : List Event) (got : Bytes) (s : State),
    ((∃ k, p = .ksEcho k) ∨ p = .krHdr ∨ p = .krBody) →
    s.latch = none → s.conn = .connected → s.phase = .reading p ep s.regs.need.toNat → s.inbox = .answer (.ok n) :: rest →
    got = (s.inbound.waiting ep).take n → got.length < s.regs.need.toNat →
    ∃ r : Byte, r.toNat = s.regs.need.toNat - got.length ∧
      step s = .next { s with
        inbox := rest
        inbound := s.inbound.put ep ((s.inbound.waiting ep).drop n)
        phase := .reading p ep r.toNat
        calls := s.calls ++ [.read ep r.toNat]
        regs := { s.regs with acc := s.regs.acc ++ got, need := r } }

/-- R198 (decisions D14, D15): an echo equal to the chunk goes on to the next chunk, or ends KSEND after the last; nothing is
logged. -/
def Obligations.TrueEchoGoesOn : Prop :=
  ∀ (k : Nat) (ep : ReadEndpoint) (n : Nat) (rest : List Event) (got : Bytes) (s : State),
    s.latch = none → s.conn = .connected → s.phase = .reading (.ksEcho k) ep s.regs.need.toNat →
    s.inbox = .answer (.ok n) :: rest → got = (s.inbound.waiting ep).take n → got.length = s.regs.need.toNat →
    s.regs.acc ++ got = s.regs.chunk →
    ∃ (sr : State) (r : Regs),
      sr = { s with inbox := rest, inbound := s.inbound.put ep ((s.inbound.waiting ep).drop n) } ∧
      r = { s.regs with acc := s.regs.acc ++ got, need := 0, echo := s.regs.chunk } ∧
      (s.regs.nch ≤ k + 1 → step s = .next { sr with
        phase := .idle, rsps := s.rsps ++ [.ok .nothing], regs := r }) ∧
      (k + 1 < s.regs.nch → step s = .next { sr with
        phase := .writing (.ksWr (k + 1)) .klTx (s.regs.busr :: Spec.chunk s.regs.kbuf (k + 1))
        calls := s.calls ++ [.write .klTx (s.regs.busr :: Spec.chunk s.regs.kbuf (k + 1))]
        regs := { r with kidx := k + 1, chunk := Spec.chunk s.regs.kbuf (k + 1) } })

/-- R199 (decisions D14, D15, D17): an echo that differs is fatal or logged as ECHO_POLICY and `final` say; a logged one is
`(k, chunk, echo)`, an event and an entry of `klog` (R11, D18), and the next chunk goes out, or KSEND ends OK after the last.
-/
def Obligations.FalseEchoFollowsThePolicy : Prop :=
  ∀ (k : Nat) (ep : ReadEndpoint) (n : Nat) (rest : List Event) (got : Bytes) (s : State),
    s.latch = none → s.conn = .connected → s.phase = .reading (.ksEcho k) ep s.regs.need.toNat →
    s.inbox = .answer (.ok n) :: rest → got = (s.inbound.waiting ep).take n → got.length = s.regs.need.toNat →
    s.regs.acc ++ got ≠ s.regs.chunk →
    ∃ (sr : State) (r : Regs) (fatal : Prop),
      sr = { s with inbox := rest, inbound := s.inbound.put ep ((s.inbound.waiting ep).drop n) } ∧
      r = { s.regs with acc := s.regs.acc ++ got, need := 0, echo := s.regs.acc ++ got } ∧
      (fatal ↔ s.cfg.echoPolicy = .alwaysFatal ∨ (s.cfg.echoPolicy = .source ∧ s.regs.kfinal = true)) ∧
      (fatal → step s = .next { sr with
        phase := .idle, rsps := s.rsps ++ [.error .protocolError], regs := r }) ∧
      (¬ fatal → s.regs.nch ≤ k + 1 → step s = .next { sr with
        phase := .idle
        klog := s.klog ++ [⟨k, s.regs.chunk, s.regs.acc ++ got⟩]
        logs := s.logs ++ [⟨k, s.regs.chunk, s.regs.acc ++ got⟩]
        rsps := s.rsps ++ [.ok .nothing]
        regs := r }) ∧
      (¬ fatal → k + 1 < s.regs.nch → step s = .next { sr with
        phase := .writing (.ksWr (k + 1)) .klTx (s.regs.busr :: Spec.chunk s.regs.kbuf (k + 1))
        klog := s.klog ++ [⟨k, s.regs.chunk, s.regs.acc ++ got⟩]
        logs := s.logs ++ [⟨k, s.regs.chunk, s.regs.acc ++ got⟩]
        calls := s.calls ++ [.write .klTx (s.regs.busr :: Spec.chunk s.regs.kbuf (k + 1))]
        regs := { r with kidx := k + 1, chunk := Spec.chunk s.regs.kbuf (k + 1) } })

/-- R165, R180, R200 (decision D11): no answer is retried on a kline path: every error answer ends the operation with its own
kind, and nothing but the event, `phase` and the response changes. -/
def Obligations.KlineErrorsAreNotRetried : Prop :=
  ∀ (a : Answer) (kind : ErrorKind) (rest : List Event) (s : State),
    s.latch = none → s.conn = .connected → s.inbox = .answer a :: rest →
    ((a = .transientIOError ∧ kind = .transientIOError) ∨ (a = .connectionError ∧ kind = .connectionError) ∨
      (a = .otherTransportError ∧ kind = .otherTransportError)) →
    ((∃ k ep buf, s.phase = .writing (.ksWr k) ep buf) ∨
      (∃ p ep max, s.phase = .reading p ep max ∧ p ≠ .crRd)) →
    step s = .next { s with inbox := rest, phase := .idle, rsps := s.rsps ++ [.error kind] }

/-! ### SerialFramer -/

/-- R210, R211 (decisions D16, D19): KRECV asks for the two header bytes of its channel. -/
def Obligations.KrecvAsksForTheHeader : Prop :=
  ∀ (b : Byte) (s : State),
    exec (.krecv b) s = .next { s with
      phase := .reading .krHdr (.klRx b) 2
      calls := s.calls ++ [.read (.klRx b) 2]
      regs := { s.regs with busr := b, acc := [], need := 2 } }

/-- R212, R213, R214, with the spec's decision D16 for the size of the next read: when the header is in, a length below 2 is
FormatError with no further read; a length of 2 ends KRECV with the header alone; any other asks for exactly the length less
2. -/
def Obligations.HeaderDecidesTheRemainder : Prop :=
  ∀ (h l : Byte) (n : Nat) (ep : ReadEndpoint) (rest : List Event) (got : Bytes) (s : State),
    s.latch = none → s.conn = .connected → s.phase = .reading .krHdr ep s.regs.need.toNat →
    s.inbox = .answer (.ok n) :: rest → got = (s.inbound.waiting ep).take n → got.length = s.regs.need.toNat →
    s.regs.acc ++ got = [h, l] →
    ∃ (sr : State) (r : Regs),
      sr = { s with inbox := rest, inbound := s.inbound.put ep ((s.inbound.waiting ep).drop n) } ∧
      r = { s.regs with acc := [h, l], need := 0, hdr := (h, l) } ∧
      (l.toNat < 2 → step s = .next { sr with
        phase := .idle, rsps := s.rsps ++ [.error .formatError], regs := r }) ∧
      (l.toNat = 2 → step s = .next { sr with
        phase := .idle
        rsps := s.rsps ++ [.ok (.message [h, l])]
        regs := { r with rem := 0, acc := [], body := [] } }) ∧
      (2 < l.toNat → step s = .next { sr with
        phase := .reading .krBody (.klRx s.regs.busr) (l.toNat - 2)
        calls := s.calls ++ [.read (.klRx s.regs.busr) (l.toNat - 2)]
        regs := { r with rem := BitVec.ofNat 8 (l.toNat - 2), acc := [], need := BitVec.ofNat 8 (l.toNat - 2) } })

/-- R87, R99, R212, R213: the header rows: a legal one gives REM, an illegal one FormatError. As instructions
that stop there they are the model's reading, log entry 12. -/
def Obligations.HeaderRowsGiveRemainderOrFormatError : Prop :=
  (∀ (h l : Byte) (s : State), 2 ≤ l.toNat →
    exec (.krxmsgHdrLegal h l) s = .next { s with regs := { s.regs with
      hdr := (h, l), rem := BitVec.ofNat 8 (l.toNat - 2) } }) ∧
  (∀ (h : Byte) (l : BitVec 1) (s : State),
    exec (.krxmsgHdrIllegal h l) s = .next { s with
      phase := .idle
      rsps := s.rsps ++ [.error .formatError]
      regs := { s.regs with hdr := (h, BitVec.ofNat 8 l.toNat) } })

/-- R211, R214, R215: however the answers cut header and remainder up, empty answers among them, KRECV ends with the header
and the remainder in the order the bytes arrived, and has consumed exactly as many bytes as the header says. The channel and
the read loop are the spec's decisions D19 and D16; that every other bus's side is left alone is log entry 1. -/
def Obligations.KrecvDeliversTheWholeMessage : Prop :=
  ∀ (b h l : Byte) (body more bytes : Bytes) (hs ks : List Nat) (rest : List Event) (s : State),
    s.latch = none → s.conn = .connected → s.phase = .idle → s.inbound.wf = true →
    decode .cmd bytes = .ok (.krecv b, []) →
    s.inbound.waiting (.klRx b) = h :: l :: (body ++ more) → l.toNat = 2 + body.length →
    hs.sum = 2 → hs.getLast? ≠ some 0 → ks.sum = body.length → ks.getLast? ≠ some 0 →
    s.inbox = .command bytes :: ((hs ++ ks).map (fun n => Event.answer (.ok n)) ++ rest) →
    ∃ t : State, Host.Core.run core (1 + hs.length + ks.length) s = .next t ∧ t.phase = .idle ∧ t.inbox = rest ∧
      t.rsps = s.rsps ++ [.ok (.message (h :: l :: body))] ∧ t.inbound.waiting (.klRx b) = more ∧
      ∀ e, e ≠ .klRx b → t.inbound.waiting e = s.inbound.waiting e

/-! ### The connection, the interface and the whole machine -/

/-- R53, R240 (decision D31): with the connection not up, any answer to any pending call, and also no answer at all (log
entry 6), ends the operation with ConnectionError. -/
def Obligations.NoConnectionMeansConnectionError : Prop :=
  ∀ s : State, s.latch = none → s.conn ≠ .connected → s.phase ≠ .idle →
    (∀ (a : Answer) (rest : List Event), s.upcoming = .answer a :: rest →
      step s = .next { s with inbox := rest, phase := .idle, rsps := s.rsps ++ [.error .connectionError] }) ∧
    (s.upcoming = [] →
      step s = .next { s with phase := .idle, rsps := s.rsps ++ [.error .connectionError] })

/-- R27 (decision D22): ENCODE and DECODE never see `conn`. -/
def Obligations.CodecNeverSeesTheConnection : Prop :=
  ∀ (i : Instr) (c : Conn) (s : State), ((∃ a d b, i = .encode a d b) ∨ ∃ sl, i = .decode sl) →
    ∃ t : State, exec i s = .next t ∧ exec i { s with conn := c } = .next { t with conn := c } ∧
      t.conn = s.conn ∧ t.calls = s.calls ∧ t.klog = s.klog ∧ t.logs = s.logs

/-- R234 (decisions D4, D24, D25): a command while an operation is in progress, an ENCODE or a frame of a SENDMANY with an
address of 2^29 or more and an answer longer than the request are refused, each by its name; the operands' bytes are laid out
as log entry 8 says. So is an operand past a bounded TX_FRAMES_MAX or KSEND_MAX, which is
the model's choice (log entry 18). -/
def Obligations.RefusedRequestsTakeNoStep : Prop :=
  (∀ (bytes : Bytes) (rest : List Event) (s : State), s.latch = none → s.phase ≠ .idle →
    s.inbox = .command bytes :: rest → step s = .refused .busy) ∧
  (∀ (w : Nat) (more : Bytes) (rest : List Event) (s : State), 2 ^ 29 ≤ w → w < 2 ^ 32 → s.latch = none →
    s.phase = .idle → s.inbox = .command (0x01 :: (Spec.leBytes 4 w ++ more)) :: rest →
    step s = .refused (.undecodable .addressOutOfRange)) ∧
  (∀ (fs : List TxFrame) (w : Nat) (more : Bytes) (rest : List Event) (s : State), 2 ^ 29 ≤ w → w < 2 ^ 32 →
    s.latch = none → s.phase = .idle →
    s.inbox = .command (0x03 :: (fs.flatMap (fun f => 0x01 :: encodeTxFrame f) ++ 0x01 :: (Spec.leBytes 4 w ++ more))) ::
      rest →
    step s = .refused (.undecodable .addressOutOfRange)) ∧
  (∀ (p : ReadPoint) (ep : ReadEndpoint) (max n : Nat) (rest : List Event) (s : State), s.latch = none →
    s.conn = .connected → s.phase = .reading p ep max → s.inbox = .answer (.ok n) :: rest →
    max < ((s.inbound.waiting ep).take n).length →
    step s = .refused (.overlongAnswer max ((s.inbound.waiting ep).take n).length)) ∧
  (∀ (fs : List TxFrame) (m : Nat) (s : State), s.cfg.txFramesMax = some m → m < fs.length →
    exec (.sendmany fs) s = .refused (.tooManyFrames m)) ∧
  (∀ (msg : Bytes) (b : Byte) (cs : Bool) (m : Nat) (s : State), s.cfg.ksendMax = some m → m < msg.length →
    exec (.ksend msg b cs) s = .refused (.messageTooLong m))

/-- R102 (decision D3): each reserved `op` is refused, as an instruction and as a command, whatever follows the selector.
That a command's first byte is `op` in its low 4 bits under zeros, and that the bytes behind it are not read, is the model's
choice, log entry 8. -/
def Obligations.ReservedOpsAreRefused : Prop :=
  ∀ (i : Instr) (op : BitVec 4) (s : State),
    (i, op) ∈ ([(.reservedOp0, 0x0), (.reservedOp7, 0x7), (.reservedOp8, 0x8), (.reservedOp9, 0x9), (.reservedOpA, 0xA),
      (.reservedOpB, 0xB), (.reservedOpC, 0xC), (.reservedOpD, 0xD), (.reservedOpE, 0xE), (.reservedOpF, 0xF)] :
      List (Instr × BitVec 4)) →
    exec i s = .refused (.reservedOp op) ∧
    ∀ (more : Bytes) (rest : List Event), s.latch = none → s.phase = .idle →
      s.inbox = .command (op.setWidth 8 :: more) :: rest → step s = .refused (.reservedOp op)

/-- R58: the bytes a read returned are gone from its inbound side, and no other side is touched. That the sides of two
buses are two sides is the model's choice, log entry 1. -/
def Obligations.ReadsConsume : Prop :=
  ∀ (p : ReadPoint) (ep : ReadEndpoint) (max n : Nat) (rest : List Event) (s : State),
    s.latch = none → s.conn = .connected → s.inbound.wf = true → s.phase = .reading p ep max →
    s.inbox = .answer (.ok n) :: rest → ((s.inbound.waiting ep).take n).length ≤ max →
    ∃ t : State, step s = .next t ∧ t.inbound.waiting ep = (s.inbound.waiting ep).drop n ∧
      (∀ e, e ≠ ep → t.inbound.waiting e = s.inbound.waiting e) ∧ t.inbound.wf = true

/-- R90, R226 (decision D20): RSP delivers the response and leaves the block idle; the codes of STATUS. -/
def Obligations.ResponseEndsTheOperation : Prop :=
  (∀ (r : Response) (s : State), exec (.rsp r) s = .next { s with phase := .idle, rsps := s.rsps ++ [r] }) ∧
  (∀ v : Result, (Response.ok v).status = 0x0) ∧
  [ErrorKind.callerError, .formatError, .protocolError, .connectionError, .transientIOError, .otherTransportError].map
    (fun k => (Response.error k).status) = [0x1, 0x2, 0x3, 0x4, 0x5, 0x6]

/-- The model's step (log entries 4, 10): a command that decodes is run by `exec` with the event taken, a unit input word
with the latch emptied. -/
def Obligations.StepRunsTheDecodedInstruction : Prop :=
  (∀ (bytes more : Bytes) (rest : List Event) (i : Instr) (s : State), s.latch = none → s.phase = .idle →
    s.upcoming = .command bytes :: rest → decode .cmd bytes = .ok (i, more) → step s = exec i { s with inbox := rest }) ∧
  (∀ (port : Port) (bytes more : Bytes) (i : Instr) (s : State), s.latch = some (port, bytes) →
    decode port bytes = .ok (i, more) → step s = exec i { s with latch := none })

/-- Decoding is right on words written out from the spec's encodings (R82 to R84, R89, R98, R99). -/
def Obligations.SpecWordsDecode : Prop :=
  decodeTableWord 8 0x4 = some .canrecv ∧
  decodeTableWord 8 0x9 = some .reservedOp9 ∧
  decodeTableWord 32 0x24600001 = some (.canslotW1StdEnc 0x123) ∧
  decodeTableWord 32 0x00004005 = some (.canslotW1ExtEnc 0x800) ∧
  decodeTableWord 32 0x00011042 = some (.canslotW1Std 0 0x2208 1 0) ∧
  decodeTableWord 16 0x0005 = some (.krxmsgHdrLegal 0x00 0x05) ∧
  decodeTableWord 16 0x0001 = some (.krxmsgHdrIllegal 0x00 1) ∧
  decode .word2Rx [0x42, 0x10, 0x01, 0x00] = .ok (.canslotW2Len0to7 1 1 4 2, []) ∧
  decode .word2Rx [0x19, 0x00, 0x00, 0x00] = .ok (.canslotW2Illegal9 0 0 1, []) ∧
  decode .cmd [0x06, 0x02] = .ok (.krecv 2, []) ∧
  decode .kchunk [0x02, 0x02, 0x10, 0x12] = .ok (.kchunk 2 [0x02, 0x10, 0x12], []) ∧
  decode .rsp [0x02] = .ok (.rsp (.error .formatError), [])

/-- Every well-formed instruction that has an encoding is read back from it, with every operand. The command's operand layout
is the model's (log entry 8). -/
def Obligations.DecodeOfEncodeIsTheInstruction : Prop :=
  ∀ (i : Instr) (port : Port) (bytes : Bytes), i.wellFormed = true → encode i = some (port, bytes) →
    decode port bytes = .ok (i, [])

/-- R89, R246 (decision D3; the bytes' layout is log entry 8): whatever bytes the host presents, no micro-operation and no
wire form is what they stand for. -/
def Obligations.HostCannotIssueMicroOperations : Prop :=
  ∀ (bytes more : Bytes) (i : Instr), decode .cmd bytes = .ok (i, more) → i.hostIssuable = true

/-- R33 (decision D26): what reset leaves. -/
def Obligations.ResetState : Prop :=
  State.reset.phase = .idle ∧ State.reset.conn = .notEstablished ∧ State.reset.klog = [] ∧ State.reset.cfg.legal = true ∧
    State.reset.calls = [] ∧ State.reset.rsps = [] ∧ State.reset.logs = [] ∧ step State.reset = .next State.reset

/-- R260, R261 (decision D26; log entries 7 and 16): a reset, whatever comes after it, abandons the operation without a
response; the calls made and the events emitted stay so, the inbound sides and the parameters stay. An answer that comes to
an idle block, as the one to a call that a reset has forgotten, is dropped. -/
def Obligations.ResetAbandonsTheOperation : Prop :=
  (∀ (rest : List Event) (s : State), s.latch = none → s.inbox = .reset :: rest →
    ∃ t : State, step s = .next t ∧ t.phase = .idle ∧ t.conn = .notEstablished ∧ t.klog = [] ∧ t.rsps = s.rsps ∧
      t.calls = s.calls ∧ t.logs = s.logs ∧ t.inbound = s.inbound ∧ t.cfg = s.cfg ∧ t.inbox = rest ∧ t.latch = none) ∧
  (∀ (a : Answer) (rest : List Event) (s : State), s.latch = none → s.phase = .idle → s.inbox = .answer a :: rest →
    step s = .next { s with inbox := rest })

/-- R27, R28 (decision D22): a step changes `conn` only by an event of the environment and only by the moves of R27 (reset
apart, R260), and never changes a configuration field. -/
def Obligations.OnlyTheEnvironmentMovesTheConnection : Prop :=
  ∀ s t : State, step s = .next t → t.cfg = s.cfg ∧
    (t.conn = s.conn ∨
      (s.latch = none ∧ ∃ rest,
        (s.upcoming = .connect :: rest ∧ s.conn = .notEstablished ∧ t.conn = .connected) ∨
        (s.upcoming = .close :: rest ∧ s.conn = .connected ∧ t.conn = .closed) ∨
        (s.upcoming = .reset :: rest ∧ t.conn = .notEstablished)))

/-- R30, R11 (decision D18): outside reset a step leaves `klog` and the events emitted as they are or adds one and the same
entry to both, and only when an echo was awaited; a reset emits nothing and takes no event back (log entries 16, 22). In states the block can be
in (Inv). -/
def Obligations.LogOnlyGrows : Prop :=
  ∀ s t : State, Inv s → step s = .next t →
    ((∃ rest, s.upcoming = .reset :: rest) ∧ t.klog = [] ∧ t.logs = s.logs) ∨ (t.klog = s.klog ∧ t.logs = s.logs) ∨
      ∃ (k : Nat) (ep : ReadEndpoint) (max : Nat) (e : LogEntry), s.phase = .reading (.ksEcho k) ep max ∧
        e.k = k ∧ e.sent = s.regs.chunk ∧ e.echo.length = e.sent.length ∧ e.echo ≠ e.sent ∧ t.klog = s.klog ++ [e] ∧
        t.logs = s.logs ++ [e]

/-- R29, R63 (decision D32): a step delivers at most one response and the block is then idle; it issues at most one transport
call and the block then waits on that call. -/
def Obligations.OneResponseAndOneCallAtATime : Prop :=
  ∀ s t : State, step s = .next t →
    (t.rsps = s.rsps ∨ ∃ r, t.rsps = s.rsps ++ [r] ∧ t.phase = .idle) ∧
    (t.calls = s.calls ∨
      (∃ p ep bytes, t.phase = .writing p ep bytes ∧ t.calls = s.calls ++ [.write ep bytes]) ∨
      (∃ p ep max, t.phase = .reading p ep max ∧ t.calls = s.calls ++ [.read ep max]))

/-- The invariant holds after reset. The registers' values there are the model's choice (log entry 3). -/
def Obligations.InvariantAtReset : Prop := Inv State.reset

/-- R24, R25, R30, R61, R68, R246: every step keeps the invariant, from every state that meets it: the registers agree with
the suspension point, every call has a legal size and no read is of 0 bytes, every response is well formed (R14, R29, R146,
R215; which operation gives it is not said here), the inbound sides are in canonical form, `klog` is the latest of the events
emitted, and nothing but a host's command or the outstanding answer runs. The registers' part holds the spec's decisions D13 to
D16 and D19 (drain size, cut at 15, selector byte, read sizes, channel) and log entries 11, 14 and 21 (kfinal, IDX, TXBUF with
BATCH false); the empty latch is log entry 10, the list of events emitted log entry 22. -/
def Obligations.StepKeepsTheInvariant : Prop :=
  ∀ s t : State, Inv s → step s = .next t → Inv t
end

