-- ==== Sys2Proof/Laws/State.lean ====
section
/-! SUPPORT. One lemma per field of State for each shared update: what the update makes of it. -/

namespace Sys2Proof.Machine

variable (s : State)

@[simp] theorem mapRegs_cfg (f : Regs → Regs) : (s.mapRegs f).cfg = s.cfg := rfl
@[simp] theorem mapRegs_conn (f : Regs → Regs) : (s.mapRegs f).conn = s.conn := rfl
@[simp] theorem mapRegs_klog (f : Regs → Regs) : (s.mapRegs f).klog = s.klog := rfl
@[simp] theorem mapRegs_phase (f : Regs → Regs) : (s.mapRegs f).phase = s.phase := rfl
@[simp] theorem mapRegs_regs (f : Regs → Regs) : (s.mapRegs f).regs = f s.regs := rfl
@[simp] theorem mapRegs_inbound (f : Regs → Regs) : (s.mapRegs f).inbound = s.inbound := rfl
@[simp] theorem mapRegs_inbox (f : Regs → Regs) : (s.mapRegs f).inbox = s.inbox := rfl
@[simp] theorem mapRegs_recurring (f : Regs → Regs) : (s.mapRegs f).recurring = s.recurring := rfl
@[simp] theorem mapRegs_latch (f : Regs → Regs) : (s.mapRegs f).latch = s.latch := rfl
@[simp] theorem mapRegs_calls (f : Regs → Regs) : (s.mapRegs f).calls = s.calls := rfl
@[simp] theorem mapRegs_rsps (f : Regs → Regs) : (s.mapRegs f).rsps = s.rsps := rfl
@[simp] theorem mapRegs_logs (f : Regs → Regs) : (s.mapRegs f).logs = s.logs := rfl

@[simp] theorem issueWrite_cfg (p : WritePoint) (ep : WriteEndpoint) (bytes : Bytes) : (issueWrite p ep bytes s).cfg = s.cfg := rfl
@[simp] theorem issueWrite_conn (p : WritePoint) (ep : WriteEndpoint) (bytes : Bytes) : (issueWrite p ep bytes s).conn = s.conn := rfl
@[simp] theorem issueWrite_klog (p : WritePoint) (ep : WriteEndpoint) (bytes : Bytes) : (issueWrite p ep bytes s).klog = s.klog := rfl
@[simp] theorem issueWrite_phase (p : WritePoint) (ep : WriteEndpoint) (bytes : Bytes) : (issueWrite p ep bytes s).phase = .writing p ep bytes := rfl
@[simp] theorem issueWrite_regs (p : WritePoint) (ep : WriteEndpoint) (bytes : Bytes) : (issueWrite p ep bytes s).regs = s.regs := rfl
@[simp] theorem issueWrite_inbound (p : WritePoint) (ep : WriteEndpoint) (bytes : Bytes) : (issueWrite p ep bytes s).inbound = s.inbound := rfl
@[simp] theorem issueWrite_inbox (p : WritePoint) (ep : WriteEndpoint) (bytes : Bytes) : (issueWrite p ep bytes s).inbox = s.inbox := rfl
@[simp] theorem issueWrite_recurring (p : WritePoint) (ep : WriteEndpoint) (bytes : Bytes) : (issueWrite p ep bytes s).recurring = s.recurring := rfl
@[simp] theorem issueWrite_latch (p : WritePoint) (ep : WriteEndpoint) (bytes : Bytes) : (issueWrite p ep bytes s).latch = s.latch := rfl
@[simp] theorem issueWrite_calls (p : WritePoint) (ep : WriteEndpoint) (bytes : Bytes) : (issueWrite p ep bytes s).calls = s.calls ++ [.write ep bytes] := rfl
@[simp] theorem issueWrite_rsps (p : WritePoint) (ep : WriteEndpoint) (bytes : Bytes) : (issueWrite p ep bytes s).rsps = s.rsps := rfl
@[simp] theorem issueWrite_logs (p : WritePoint) (ep : WriteEndpoint) (bytes : Bytes) : (issueWrite p ep bytes s).logs = s.logs := rfl

@[simp] theorem issueRead_cfg (p : ReadPoint) (ep : ReadEndpoint) (max : Nat) : (issueRead p ep max s).cfg = s.cfg := rfl
@[simp] theorem issueRead_conn (p : ReadPoint) (ep : ReadEndpoint) (max : Nat) : (issueRead p ep max s).conn = s.conn := rfl
@[simp] theorem issueRead_klog (p : ReadPoint) (ep : ReadEndpoint) (max : Nat) : (issueRead p ep max s).klog = s.klog := rfl
@[simp] theorem issueRead_phase (p : ReadPoint) (ep : ReadEndpoint) (max : Nat) : (issueRead p ep max s).phase = .reading p ep max := rfl
@[simp] theorem issueRead_regs (p : ReadPoint) (ep : ReadEndpoint) (max : Nat) : (issueRead p ep max s).regs = s.regs := rfl
@[simp] theorem issueRead_inbound (p : ReadPoint) (ep : ReadEndpoint) (max : Nat) : (issueRead p ep max s).inbound = s.inbound := rfl
@[simp] theorem issueRead_inbox (p : ReadPoint) (ep : ReadEndpoint) (max : Nat) : (issueRead p ep max s).inbox = s.inbox := rfl
@[simp] theorem issueRead_recurring (p : ReadPoint) (ep : ReadEndpoint) (max : Nat) : (issueRead p ep max s).recurring = s.recurring := rfl
@[simp] theorem issueRead_latch (p : ReadPoint) (ep : ReadEndpoint) (max : Nat) : (issueRead p ep max s).latch = s.latch := rfl
@[simp] theorem issueRead_calls (p : ReadPoint) (ep : ReadEndpoint) (max : Nat) : (issueRead p ep max s).calls = s.calls ++ [.read ep max] := rfl
@[simp] theorem issueRead_rsps (p : ReadPoint) (ep : ReadEndpoint) (max : Nat) : (issueRead p ep max s).rsps = s.rsps := rfl
@[simp] theorem issueRead_logs (p : ReadPoint) (ep : ReadEndpoint) (max : Nat) : (issueRead p ep max s).logs = s.logs := rfl

@[simp] theorem respond_cfg (r : Response) : (respond r s).cfg = s.cfg := rfl
@[simp] theorem respond_conn (r : Response) : (respond r s).conn = s.conn := rfl
@[simp] theorem respond_klog (r : Response) : (respond r s).klog = s.klog := rfl
@[simp] theorem respond_phase (r : Response) : (respond r s).phase = .idle := rfl
@[simp] theorem respond_regs (r : Response) : (respond r s).regs = s.regs := rfl
@[simp] theorem respond_inbound (r : Response) : (respond r s).inbound = s.inbound := rfl
@[simp] theorem respond_inbox (r : Response) : (respond r s).inbox = s.inbox := rfl
@[simp] theorem respond_recurring (r : Response) : (respond r s).recurring = s.recurring := rfl
@[simp] theorem respond_latch (r : Response) : (respond r s).latch = s.latch := rfl
@[simp] theorem respond_calls (r : Response) : (respond r s).calls = s.calls := rfl
@[simp] theorem respond_rsps (r : Response) : (respond r s).rsps = s.rsps ++ [r] := rfl
@[simp] theorem respond_logs (r : Response) : (respond r s).logs = s.logs := rfl

@[simp] theorem finish_cfg (v : Result) : (finish v s).cfg = s.cfg := rfl
@[simp] theorem finish_conn (v : Result) : (finish v s).conn = s.conn := rfl
@[simp] theorem finish_klog (v : Result) : (finish v s).klog = s.klog := rfl
@[simp] theorem finish_phase (v : Result) : (finish v s).phase = .idle := rfl
@[simp] theorem finish_regs (v : Result) : (finish v s).regs = s.regs := rfl
@[simp] theorem finish_inbound (v : Result) : (finish v s).inbound = s.inbound := rfl
@[simp] theorem finish_inbox (v : Result) : (finish v s).inbox = s.inbox := rfl
@[simp] theorem finish_recurring (v : Result) : (finish v s).recurring = s.recurring := rfl
@[simp] theorem finish_latch (v : Result) : (finish v s).latch = s.latch := rfl
@[simp] theorem finish_calls (v : Result) : (finish v s).calls = s.calls := rfl
@[simp] theorem finish_rsps (v : Result) : (finish v s).rsps = s.rsps ++ [.ok v] := rfl
@[simp] theorem finish_logs (v : Result) : (finish v s).logs = s.logs := rfl

@[simp] theorem raiseError_cfg (k : ErrorKind) : (raiseError k s).cfg = s.cfg := rfl
@[simp] theorem raiseError_conn (k : ErrorKind) : (raiseError k s).conn = s.conn := rfl
@[simp] theorem raiseError_klog (k : ErrorKind) : (raiseError k s).klog = s.klog := rfl
@[simp] theorem raiseError_phase (k : ErrorKind) : (raiseError k s).phase = .idle := rfl
@[simp] theorem raiseError_regs (k : ErrorKind) : (raiseError k s).regs = s.regs := rfl
@[simp] theorem raiseError_inbound (k : ErrorKind) : (raiseError k s).inbound = s.inbound := rfl
@[simp] theorem raiseError_inbox (k : ErrorKind) : (raiseError k s).inbox = s.inbox := rfl
@[simp] theorem raiseError_recurring (k : ErrorKind) : (raiseError k s).recurring = s.recurring := rfl
@[simp] theorem raiseError_latch (k : ErrorKind) : (raiseError k s).latch = s.latch := rfl
@[simp] theorem raiseError_calls (k : ErrorKind) : (raiseError k s).calls = s.calls := rfl
@[simp] theorem raiseError_rsps (k : ErrorKind) : (raiseError k s).rsps = s.rsps ++ [.error k] := rfl
@[simp] theorem raiseError_logs (k : ErrorKind) : (raiseError k s).logs = s.logs := rfl

@[simp] theorem consume_cfg (ep : ReadEndpoint) (n : Nat) : (s.consume ep n).cfg = s.cfg := rfl
@[simp] theorem consume_conn (ep : ReadEndpoint) (n : Nat) : (s.consume ep n).conn = s.conn := rfl
@[simp] theorem consume_klog (ep : ReadEndpoint) (n : Nat) : (s.consume ep n).klog = s.klog := rfl
@[simp] theorem consume_phase (ep : ReadEndpoint) (n : Nat) : (s.consume ep n).phase = s.phase := rfl
@[simp] theorem consume_regs (ep : ReadEndpoint) (n : Nat) : (s.consume ep n).regs = s.regs := rfl
@[simp] theorem consume_inbound (ep : ReadEndpoint) (n : Nat) : (s.consume ep n).inbound = s.inbound.put ep ((s.inbound.waiting ep).drop n) := rfl
@[simp] theorem consume_inbox (ep : ReadEndpoint) (n : Nat) : (s.consume ep n).inbox = s.inbox := rfl
@[simp] theorem consume_recurring (ep : ReadEndpoint) (n : Nat) : (s.consume ep n).recurring = s.recurring := rfl
@[simp] theorem consume_latch (ep : ReadEndpoint) (n : Nat) : (s.consume ep n).latch = s.latch := rfl
@[simp] theorem consume_calls (ep : ReadEndpoint) (n : Nat) : (s.consume ep n).calls = s.calls := rfl
@[simp] theorem consume_rsps (ep : ReadEndpoint) (n : Nat) : (s.consume ep n).rsps = s.rsps := rfl
@[simp] theorem consume_logs (ep : ReadEndpoint) (n : Nat) : (s.consume ep n).logs = s.logs := rfl

@[simp] theorem arrive_cfg (ep : ReadEndpoint) (bytes : Bytes) : (s.arrive ep bytes).cfg = s.cfg := rfl
@[simp] theorem arrive_conn (ep : ReadEndpoint) (bytes : Bytes) : (s.arrive ep bytes).conn = s.conn := rfl
@[simp] theorem arrive_klog (ep : ReadEndpoint) (bytes : Bytes) : (s.arrive ep bytes).klog = s.klog := rfl
@[simp] theorem arrive_phase (ep : ReadEndpoint) (bytes : Bytes) : (s.arrive ep bytes).phase = s.phase := rfl
@[simp] theorem arrive_regs (ep : ReadEndpoint) (bytes : Bytes) : (s.arrive ep bytes).regs = s.regs := rfl
@[simp] theorem arrive_inbound (ep : ReadEndpoint) (bytes : Bytes) : (s.arrive ep bytes).inbound = s.inbound.put ep (s.inbound.waiting ep ++ bytes) := rfl
@[simp] theorem arrive_inbox (ep : ReadEndpoint) (bytes : Bytes) : (s.arrive ep bytes).inbox = s.inbox := rfl
@[simp] theorem arrive_recurring (ep : ReadEndpoint) (bytes : Bytes) : (s.arrive ep bytes).recurring = s.recurring := rfl
@[simp] theorem arrive_latch (ep : ReadEndpoint) (bytes : Bytes) : (s.arrive ep bytes).latch = s.latch := rfl
@[simp] theorem arrive_calls (ep : ReadEndpoint) (bytes : Bytes) : (s.arrive ep bytes).calls = s.calls := rfl
@[simp] theorem arrive_rsps (ep : ReadEndpoint) (bytes : Bytes) : (s.arrive ep bytes).rsps = s.rsps := rfl
@[simp] theorem arrive_logs (ep : ReadEndpoint) (bytes : Bytes) : (s.arrive ep bytes).logs = s.logs := rfl

@[simp] theorem resetBlock_cfg : (resetBlock s).cfg = s.cfg := rfl
@[simp] theorem resetBlock_conn : (resetBlock s).conn = .notEstablished := rfl
@[simp] theorem resetBlock_klog : (resetBlock s).klog = [] := rfl
@[simp] theorem resetBlock_phase : (resetBlock s).phase = .idle := rfl
@[simp] theorem resetBlock_regs : (resetBlock s).regs = Regs.reset := rfl
@[simp] theorem resetBlock_inbound : (resetBlock s).inbound = s.inbound := rfl
@[simp] theorem resetBlock_inbox : (resetBlock s).inbox = s.inbox := rfl
@[simp] theorem resetBlock_recurring : (resetBlock s).recurring = s.recurring := rfl
@[simp] theorem resetBlock_latch : (resetBlock s).latch = s.latch := rfl
@[simp] theorem resetBlock_calls : (resetBlock s).calls = s.calls := rfl
@[simp] theorem resetBlock_rsps : (resetBlock s).rsps = s.rsps := rfl
@[simp] theorem resetBlock_logs : (resetBlock s).logs = s.logs := rfl

@[simp] theorem logEvent_cfg (e : LogEntry) : (logEvent e s).cfg = s.cfg := rfl
@[simp] theorem logEvent_conn (e : LogEntry) : (logEvent e s).conn = s.conn := rfl
@[simp] theorem logEvent_klog (e : LogEntry) : (logEvent e s).klog = s.klog ++ [e] := rfl
@[simp] theorem logEvent_phase (e : LogEntry) : (logEvent e s).phase = s.phase := rfl
@[simp] theorem logEvent_regs (e : LogEntry) : (logEvent e s).regs = s.regs := rfl
@[simp] theorem logEvent_inbound (e : LogEntry) : (logEvent e s).inbound = s.inbound := rfl
@[simp] theorem logEvent_inbox (e : LogEntry) : (logEvent e s).inbox = s.inbox := rfl
@[simp] theorem logEvent_recurring (e : LogEntry) : (logEvent e s).recurring = s.recurring := rfl
@[simp] theorem logEvent_latch (e : LogEntry) : (logEvent e s).latch = s.latch := rfl
@[simp] theorem logEvent_calls (e : LogEntry) : (logEvent e s).calls = s.calls := rfl
@[simp] theorem logEvent_rsps (e : LogEntry) : (logEvent e s).rsps = s.rsps := rfl
@[simp] theorem logEvent_logs (e : LogEntry) : (logEvent e s).logs = s.logs ++ [e] := rfl

/-- While `inbox` lists something, that is what comes. -/
@[simp] theorem upcoming_of_cons {e : Event} {rest : List Event} (h : s.inbox = e :: rest) : s.upcoming = e :: rest := by
  simp [State.upcoming, h]

/-- Once `inbox` is used up, the recurring events come. -/
@[simp] theorem upcoming_of_nil (h : s.inbox = []) : s.upcoming = s.recurring := by simp [State.upcoming, h]

/-- Two rewrites of the working registers are one. -/
theorem mapRegs_mapRegs (f g : Regs → Regs) : (s.mapRegs f).mapRegs g = s.mapRegs (fun r => g (f r)) := rfl

end Sys2Proof.Machine
end

