-- ==== Sys2Proof/Laws/Codec.lean ====
section
/-! SUPPORT. The units of the CAN paths: what the loops over frames and slots give, apart from the registers they pass
through. -/

namespace Sys2Proof.Machine

/-- What DECODE's registers hold afterwards is what the slot decodes to. -/
theorem decodeInto_result (sl : Slot) (r : Regs) :
    (if lengthIllegal (decodeInto sl r).len then none else some (frameOf (decodeInto sl r))) = decodeSlot sl := by
  cases h : lengthIllegal (wordLength (slotWord2 sl)) <;>
    simp [decodeInto, readWord2, readWord1, decodeSlot, frameOf, h]

theorem decodeInto_len (sl : Slot) (r : Regs) : (decodeInto sl r).len = wordLength (slotWord2 sl) := by
  cases h : lengthIllegal (wordLength (slotWord2 sl)) <;> simp [decodeInto, readWord2, h]

/-- CANRECV's loop decodes each slot by itself (41_bus_multiplexer.md R147). -/
theorem decodeLoop_results (i : Nat) (sls : List Slot) (r : Regs) :
    (decodeLoop i sls r).2 = sls.map decodeSlot := by
  induction sls generalizing i r with
  | nil => rfl
  | cons sl sls ih => simp [decodeLoop, ih, decodeInto_result]

/-- SENDMANY's loop puts the slots in input order (R142). -/
theorem encodeLoop_buffer (i : Nat) (fs : List TxFrame) (r : Regs) :
    (encodeLoop i fs r).2 = fs.flatMap (fun f => (encodeSlot f.address f.data f.bus).toList) := by
  induction fs generalizing i r with
  | nil => rfl
  | cons f fs ih => simp [encodeLoop, ih, encodeInto]

theorem encodeLoop_frames (i : Nat) (fs : List TxFrame) (r : Regs) :
    (encodeLoop i fs r).1.frames = r.frames := by
  induction fs generalizing i r with
  | nil => rfl
  | cons f fs ih => simp [encodeLoop, ih, encodeInto, captureFrame]

@[simp] theorem encodeFrames_frames (fs : List TxFrame) (r : Regs) : (encodeFrames fs r).frames = fs := by
  simp [encodeFrames, encodeLoop_frames]

@[simp] theorem encodeFrames_txbuf (fs : List TxFrame) (r : Regs) :
    (encodeFrames fs r).txbuf = fs.flatMap (fun f => (encodeSlot f.address f.data f.bus).toList) := by
  simp [encodeFrames, encodeLoop_buffer]

/-- The slots' bytes are 16 to a frame. -/
theorem slots_length (fs : List TxFrame) :
    (fs.flatMap (fun f => (encodeSlot f.address f.data f.bus).toList)).length = 16 * fs.length := by
  induction fs with
  | nil => rfl
  | cons f fs ih => simp [ih]; omega

@[simp] theorem slotsOf_length (buf : Bytes) (n : Nat) : (slotsOf buf n).length = n := by simp [slotsOf]

/-- All that CANRECV does with the bytes of its read (R145 to R148): RXBUF and NSLOT are written, the response is made from
the decoded slots, and nothing outside the working registers, `phase` and the responses changes. -/
theorem receiveBytes_spec (bytes : Bytes) (s : State) :
    ∃ regs : Regs, receiveBytes bytes s =
      respond (receiveResult s.cfg.rxErrPolicy ((slotsOf bytes (bytes.length / 16)).map decodeSlot))
        { s with regs := regs } := by
  refine ⟨(decodeLoop 0 (slotsOf bytes (bytes.length / 16))
    { s.regs with rxbuf := bytes, nslot := BitVec.ofNat 9 (bytes.length / 16) }).1, ?_⟩
  simp only [receiveBytes, Config.slotBytes, ← decodeLoop_results 0 _
    { s.regs with rxbuf := bytes, nslot := BitVec.ofNat 9 (bytes.length / 16) }]

end Sys2Proof.Machine
end

