-- ==== Sys2Proof/Laws/Ops.lean ====
section
/-! SUPPORT. For each shared way on of an operation, everything it can do, said once. -/

namespace Sys2Proof.Machine

/-- The loop of RDEXACT: done, or one more read of the bytes still needed (44_kline_echo_verifier.md R197). -/
theorem rdexactLoop_cases (point : ReadPoint) (ep : ReadEndpoint) (done : State → State) (s : State) :
    (s.regs.need = 0 ∧ rdexactLoop point ep done s = done s) ∨
      (s.regs.need ≠ 0 ∧ rdexactLoop point ep done s = issueRead point ep s.regs.need.toNat s) := by
  by_cases h : s.regs.need = 0
  · exact .inl ⟨h, by simp [rdexactLoop, h]⟩
  · exact .inr ⟨h, if_neg h⟩

/-- The chunk loop: the next chunk, or the end (43_kline_checksum_codec.md R179). -/
theorem chunkFrom_cases (k : Nat) (s : State) :
    (k < s.regs.nch ∧ chunkFrom k s = writeChunk k s.regs.busr (chunkAt s.regs.kbuf k) s) ∨
      (s.regs.nch ≤ k ∧ chunkFrom k s = finish .nothing s) := by
  by_cases h : k < s.regs.nch
  · exact .inl ⟨h, by simp [chunkFrom, h]⟩
  · exact .inr ⟨by omega, by simp [chunkFrom, h]⟩

/-- The write loop of SENDMANY: the next slot, or the end (41_bus_multiplexer.md R143). -/
theorem sendFrom_cases (j : Nat) (s : State) :
    (j < s.regs.frames.length ∧ sendFrom j s =
        beginWrretry j .canTx (sliceAt s.regs.txbuf j) (s.mapRegs fun r => { r with idx := BitVec.ofNat 9 j })) ∨
      (s.regs.frames.length ≤ j ∧ sendFrom j s = finish .nothing s) := by
  by_cases h : j < s.regs.frames.length
  · exact .inl ⟨h, by simp [sendFrom, h]⟩
  · exact .inr ⟨by omega, by simp [sendFrom, h]⟩

/-- A transient answer inside TransportRetry: the limit is used up, or the same call again (42_transport_retry.md R164). -/
theorem retryWrite_cases (point : WritePoint) (ep : WriteEndpoint) (buf : Bytes) (s : State) :
    (retryExhausted s.cfg.retryLimit s.regs.att = true ∧ retryWrite point ep buf s = raiseError .transientIOError s) ∨
      (retryExhausted s.cfg.retryLimit s.regs.att = false ∧ retryWrite point ep buf s =
        issueWrite point ep buf (s.mapRegs fun r => { r with att := r.att + 1 })) := by
  cases h : retryExhausted s.cfg.retryLimit s.regs.att
  · exact .inr ⟨rfl, by simp [retryWrite, h]⟩
  · exact .inl ⟨rfl, by simp [retryWrite, h]⟩

theorem retryRead_cases (point : ReadPoint) (ep : ReadEndpoint) (max : Nat) (s : State) :
    (retryExhausted s.cfg.retryLimit s.regs.att = true ∧ retryRead point ep max s = raiseError .transientIOError s) ∨
      (retryExhausted s.cfg.retryLimit s.regs.att = false ∧ retryRead point ep max s =
        issueRead point ep max (s.mapRegs fun r => { r with att := r.att + 1 })) := by
  cases h : retryExhausted s.cfg.retryLimit s.regs.att
  · exact .inr ⟨rfl, by simp [retryRead, h]⟩
  · exact .inl ⟨rfl, by simp [retryRead, h]⟩

/-- The echo is in: match, fatal mismatch or logged mismatch (44_kline_echo_verifier.md R198, R199). -/
theorem echoDone_cases (k : Nat) (s : State) :
    (s.regs.acc = s.regs.chunk ∧
        echoDone k s = chunkFrom (k + 1) (s.mapRegs fun r => { r with echo := r.acc })) ∨
      (s.regs.acc ≠ s.regs.chunk ∧ echoFatal s.cfg.echoPolicy s.regs.kfinal = true ∧
        echoDone k s = raiseError .protocolError (s.mapRegs fun r => { r with echo := r.acc })) ∨
      (s.regs.acc ≠ s.regs.chunk ∧ echoFatal s.cfg.echoPolicy s.regs.kfinal = false ∧
        echoDone k s = chunkFrom (k + 1)
          (logEvent ⟨k, s.regs.chunk, s.regs.acc⟩ (s.mapRegs fun r => { r with echo := r.acc }))) := by
  by_cases h : s.regs.acc = s.regs.chunk
  · exact .inl ⟨h, by simp [echoDone, h]⟩
  · cases hf : echoFatal s.cfg.echoPolicy s.regs.kfinal
    · exact .inr (.inr ⟨h, rfl, by simp [echoDone, h, hf]⟩)
    · exact .inr (.inl ⟨h, rfl, by simp [echoDone, h, hf]⟩)

/-- The header is in: FormatError, or the remainder is begun (45_serial_framer.md R212 to R214). -/
theorem headerDone_cases (s : State) :
    (((s.regs.acc.getD 1 0).toNat < 2) ∧
        headerDone s = raiseError .formatError
          (s.mapRegs fun r => { r with hdr := (r.acc.getD 0 0, r.acc.getD 1 0) })) ∨
      (2 ≤ (s.regs.acc.getD 1 0).toNat ∧
        headerDone s = rdexactStart .krBody (.klRx s.regs.busr) (s.regs.acc.getD 1 0 - 2) bodyDone
          (s.mapRegs fun r =>
            { r with hdr := (r.acc.getD 0 0, r.acc.getD 1 0), rem := r.acc.getD 1 0 - 2 })) := by
  by_cases h : (s.regs.acc.getD 1 0).toNat < 2
  · exact .inl ⟨h, by simp [headerDone, headerIllegal, readHeader, refuseHeader, State.mapRegs] at h ⊢; intro h'; omega⟩
  · exact .inr ⟨by omega, by
      simp only [headerDone, headerIllegal, readHeader, remainderOf, mapRegs_regs, h, decide_false,
        Bool.false_eq_true, if_false]
      rfl⟩

/-- A step takes the latch before anything else. -/
theorem step_latch {s : State} {port : Port} {bytes : Bytes} (h : s.latch = some (port, bytes)) :
    step s = runBytes port bytes { s with latch := none } := by simp [step, advance, h]

/-- With an empty latch a step takes the environment's next event. -/
theorem step_upcoming {s : State} {e : Event} {rest : List Event} (hl : s.latch = none) (hu : s.upcoming = e :: rest) :
    step s = handleEvent e { s with inbox := rest } := by simp [step, advance, hl, hu]

/-- That event is the head of `inbox` while it lists one. -/
theorem step_event {s : State} {e : Event} {rest : List Event} (hl : s.latch = none) (hi : s.inbox = e :: rest) :
    step s = handleEvent e { s with inbox := rest } := step_upcoming hl (upcoming_of_cons s hi)

/-- With nothing in the latch and nothing to come the block waits. -/
theorem step_wait {s : State} (hl : s.latch = none) (hu : s.upcoming = []) : step s = wait s := by
  simp [step, advance, hl, hu]

end Sys2Proof.Machine
end

