-- ==== Sys2Proof/Laws/Frame.lean ====
section
/-! SUPPORT. The frame every operation shares: what the work of the block never touches, whatever it does. -/

namespace Sys2Proof.Machine

/-- The same entries are added to `klog` and to the events emitted (00_scope.md R11, 10_state.md R30). -/
def LogAdds (s t : State) : Prop := ∃ es, t.klog = s.klog ++ es ∧ t.logs = s.logs ++ es

/-- The configuration, the connection, the events to come, the latch and the inbound sides are the same, and the log only
grows. -/
structure SameEnv (s t : State) : Prop where
  cfg     : t.cfg = s.cfg
  conn    : t.conn = s.conn
  inbox   : t.inbox = s.inbox
  recurring : t.recurring = s.recurring
  latch   : t.latch = s.latch
  inbound : t.inbound = s.inbound
  log     : LogAdds s t

theorem logAdds_none (s t : State) (hk : t.klog = s.klog := by rfl) (hl : t.logs = s.logs := by rfl) : LogAdds s t :=
  ⟨[], by simp [hk], by simp [hl]⟩

theorem LogAdds.trans' {s t u : State} : LogAdds s t → LogAdds t u → LogAdds s u := by
  rintro ⟨es, h1, h2⟩ ⟨fs, h3, h4⟩
  exact ⟨es ++ fs, by rw [h3, h1, List.append_assoc], by rw [h4, h2, List.append_assoc]⟩

/-- A `klog` that is the latest of the events emitted stays so. -/
theorem LogAdds.suffix {s t : State} (h : LogAdds s t) (hs : s.klog <:+ s.logs) : t.klog <:+ t.logs := by
  obtain ⟨es, h1, h2⟩ := h
  obtain ⟨old, ho⟩ := hs
  exact ⟨old, by rw [h1, h2, ← ho, List.append_assoc]⟩

namespace SameEnv

variable {s t u : State}

theorem rfl' : SameEnv s s := ⟨rfl, rfl, rfl, rfl, rfl, rfl, logAdds_none _ _⟩

theorem trans' (h : SameEnv s t) (h' : SameEnv t u) : SameEnv s u :=
  ⟨h'.cfg.trans h.cfg, h'.conn.trans h.conn, h'.inbox.trans h.inbox, h'.recurring.trans h.recurring,
    h'.latch.trans h.latch, h'.inbound.trans h.inbound, h.log.trans' h'.log⟩

theorem ofMapRegs (f : Regs → Regs) : SameEnv s (s.mapRegs f) := ⟨rfl, rfl, rfl, rfl, rfl, rfl, logAdds_none _ _⟩
theorem ofRegs (r : Regs) : SameEnv s { s with regs := r } := ⟨rfl, rfl, rfl, rfl, rfl, rfl, logAdds_none _ _⟩
theorem ofLog (e : LogEntry) : SameEnv s (logEvent e s) :=
  ⟨rfl, rfl, rfl, rfl, rfl, rfl, [e], rfl, rfl⟩
theorem ofWrite (p : WritePoint) (ep : WriteEndpoint) (b : Bytes) : SameEnv s (issueWrite p ep b s) :=
  ⟨rfl, rfl, rfl, rfl, rfl, rfl, logAdds_none _ _⟩
theorem ofRead (p : ReadPoint) (ep : ReadEndpoint) (n : Nat) : SameEnv s (issueRead p ep n s) :=
  ⟨rfl, rfl, rfl, rfl, rfl, rfl, logAdds_none _ _⟩
theorem ofRespond (r : Response) : SameEnv s (respond r s) := ⟨rfl, rfl, rfl, rfl, rfl, rfl, logAdds_none _ _⟩
theorem ofFinish (v : Result) : SameEnv s (finish v s) := ⟨rfl, rfl, rfl, rfl, rfl, rfl, logAdds_none _ _⟩
theorem ofRaise (k : ErrorKind) : SameEnv s (raiseError k s) := ⟨rfl, rfl, rfl, rfl, rfl, rfl, logAdds_none _ _⟩

theorem ofChunkFrom (k : Nat) : SameEnv s (chunkFrom k s) := by
  rcases chunkFrom_cases k s with ⟨-, h⟩ | ⟨-, h⟩ <;> rw [h]
  · exact (ofMapRegs _).trans' (ofWrite _ _ _)
  · exact ofFinish _

theorem ofEchoDone (k : Nat) : SameEnv s (echoDone k s) := by
  rcases echoDone_cases k s with ⟨-, h⟩ | ⟨-, -, h⟩ | ⟨-, -, h⟩ <;> rw [h]
  · exact (ofMapRegs _).trans' (ofChunkFrom _)
  · exact (ofMapRegs _).trans' (ofRaise _)
  · exact (ofMapRegs _).trans' ((ofLog _).trans' (ofChunkFrom _))

theorem ofBodyDone : SameEnv s (bodyDone s) := (ofMapRegs _).trans' (ofFinish _)

theorem ofLoop {point : ReadPoint} {ep : ReadEndpoint} {done : State → State} (hd : SameEnv s (done s)) :
    SameEnv s (rdexactLoop point ep done s) := by
  rcases rdexactLoop_cases point ep done s with ⟨-, h⟩ | ⟨-, h⟩ <;> rw [h]
  · exact hd
  · exact ofRead _ _ _

theorem ofStart {point : ReadPoint} {ep : ReadEndpoint} {n : Byte} {done : State → State}
    (hd : ∀ v : State, SameEnv v (done v)) : SameEnv s (rdexactStart point ep n done s) :=
  (ofMapRegs _).trans' (ofLoop (hd _))

theorem ofGot {point : ReadPoint} {ep : ReadEndpoint} {bytes : Bytes} {done : State → State}
    (hd : ∀ v : State, SameEnv v (done v)) : SameEnv s (rdexactGot point ep done bytes s) :=
  (ofMapRegs _).trans' (ofLoop (hd _))

theorem ofHeaderDone : SameEnv s (headerDone s) := by
  rcases headerDone_cases s with ⟨-, h⟩ | ⟨-, h⟩ <;> rw [h]
  · exact (ofMapRegs _).trans' (ofRaise _)
  · exact (ofMapRegs _).trans' (ofStart fun _ => ofBodyDone)

theorem ofSendFrom (j : Nat) : SameEnv s (sendFrom j s) := by
  rcases sendFrom_cases j s with ⟨-, h⟩ | ⟨-, h⟩ <;> rw [h]
  · exact (ofMapRegs _).trans' ((ofMapRegs _).trans' (ofWrite _ _ _))
  · exact ofFinish _

theorem ofSendWritten (j : Nat) : SameEnv s (sendWritten j s) := by
  unfold sendWritten
  split
  · exact ofFinish _
  · exact ofSendFrom _

theorem ofRetryWrite (p : WritePoint) (ep : WriteEndpoint) (b : Bytes) : SameEnv s (retryWrite p ep b s) := by
  rcases retryWrite_cases p ep b s with ⟨-, h⟩ | ⟨-, h⟩ <;> rw [h]
  · exact ofRaise _
  · exact (ofMapRegs _).trans' (ofWrite _ _ _)

theorem ofRetryRead (p : ReadPoint) (ep : ReadEndpoint) (n : Nat) : SameEnv s (retryRead p ep n s) := by
  rcases retryRead_cases p ep n s with ⟨-, h⟩ | ⟨-, h⟩ <;> rw [h]
  · exact ofRaise _
  · exact (ofMapRegs _).trans' (ofRead _ _ _)

theorem ofReceive (bytes : Bytes) : SameEnv s (receiveBytes bytes s) := by
  obtain ⟨regs, h⟩ := receiveBytes_spec bytes s
  rw [h]
  exact (ofRegs _).trans' (ofRespond _)

theorem ofDrainGot (bytes : Bytes) : SameEnv s (drainGot bytes s) := by
  unfold drainGot
  split
  · exact (ofMapRegs _).trans' (ofChunkFrom _)
  · exact ofRead _ _ _

/-- An answer to a write leaves the environment alone. -/
theorem ofResumeWrite (p : WritePoint) (ep : WriteEndpoint) (b : Bytes) (a : Answer) :
    SameEnv s (resumeWrite p ep b a s) := by
  cases a <;> cases p <;> simp only [resumeWrite]
  case ok.smWr => exact ofSendWritten _
  case ok.ksWr => exact (ofMapRegs _).trans' (ofStart fun _ => ofEchoDone _)
  case transientIOError.smWr => exact ofRetryWrite _ _ _
  all_goals exact ofRaise _

/-- The bytes of a read, once consumed, change nothing more of the environment. -/
theorem ofDeliver (p : ReadPoint) (ep : ReadEndpoint) (bytes : Bytes) : SameEnv s (deliver p ep bytes s) := by
  cases p <;> simp only [deliver]
  · exact ofReceive _
  · exact ofDrainGot _
  · exact ofGot fun _ => ofEchoDone _
  · exact ofGot fun _ => ofHeaderDone
  · exact ofGot fun _ => ofBodyDone

theorem ofCallerDone (c : RdCaller) (k : Nat) : SameEnv s (callerDone c k s) := by
  cases c
  · exact ofEchoDone _
  · exact ofHeaderDone
  · exact ofBodyDone

/-- No instruction that goes on touches the environment. -/
theorem ofExec {i : Instr} (h : exec i s = .next t) : SameEnv s t := by
  have regs : ∀ f : Regs → Regs, SameEnv s (s.mapRegs f) := fun f => ofMapRegs f
  cases i <;> simp only [exec] at h
  case encode =>
    simp only [execEncode] at h
    split at h <;> cases h
    · exact (regs _).trans' (ofRaise _)
    · exact (regs _).trans' (ofFinish _)
  case decode =>
    simp only [execDecode] at h
    split at h <;> cases h
    · exact (regs _).trans' (ofRaise _)
    · exact (regs _).trans' (ofFinish _)
  case sendmany =>
    simp only [execSendmany] at h
    split at h
    · split at h <;> cases h
      · exact (regs _).trans' (ofRaise _)
      · unfold sendSlots
        split
        · exact (regs _).trans' ((ofMapRegs _).trans' (ofWrite _ _ _))
        · exact (regs _).trans' (ofSendFrom _)
    · cases h
  case ksend =>
    simp only [execKsend] at h
    split at h <;> cases h
    exact (regs _).trans' ((ofMapRegs _).trans' (ofRead _ _ _))
  case krecv => cases h; exact (regs _).trans' (ofStart fun _ => ofHeaderDone)
  case kecho => cases h; exact (regs _).trans' (ofStart fun _ => ofEchoDone _)
  case rdexact => cases h; exact ofStart fun _ => ofCallerDone _ _
  case canslotPayload =>
    simp only [execCanslotPayload] at h
    split at h <;> cases h
    · exact ofRaise _
    · exact regs _
  case krxmsgHdrLegal =>
    simp only [execKrxmsgHdrLegal] at h
    split at h <;> cases h
    · exact (regs _).trans' (ofRaise _)
    · exact (regs _).trans' (ofMapRegs _)
  all_goals first
    | (cases h; done)
    | (cases h
       first
         | exact regs _
         | exact ofRespond _
         | exact (regs _).trans' (ofRaise _)
         | exact (regs _).trans' (ofRead _ _ _)
         | exact (regs _).trans' (ofWrite _ _ _))

end SameEnv

/-- A transport answer leaves configuration and connection alone and only adds to the log; a read consumes bytes beside. -/
theorem resume_frame {s t : State} {a : Answer} (h : resume a s = .next t) :
    t.cfg = s.cfg ∧ t.conn = s.conn ∧ LogAdds s t := by
  have same : ∀ u, SameEnv s u → u.cfg = s.cfg ∧ u.conn = s.conn ∧ LogAdds s u := fun u h => ⟨h.cfg, h.conn, h.log⟩
  unfold resume at h
  split at h
  · cases h; exact same _ SameEnv.rfl'
  · cases h; exact same _ (SameEnv.ofResumeWrite _ _ _ _)
  · rename_i p ep max _
    generalize a.under s.conn = a' at h
    cases a' with
    | ok n =>
      simp only [resumeRead] at h
      split at h <;> cases h
      have d := SameEnv.ofDeliver (s := s.consume ep n) p ep (s.peek ep n)
      exact ⟨d.cfg, d.conn, d.log⟩
    | transientIOError =>
      cases p <;> simp only [resumeRead] at h <;> cases h
      · exact same _ (SameEnv.ofRetryRead _ _ _)
      all_goals exact same _ (SameEnv.ofRaise _)
    | connectionError => cases h; exact same _ (SameEnv.ofRaise _)
    | otherTransportError => cases h; exact same _ (SameEnv.ofRaise _)

end Sys2Proof.Machine
end

