-- ==== Sys2Proof/Laws/Memory.lean ====
section
/-! SUPPORT. The inbound sides: read after write, and that every operation on them keeps the canonical form. -/

namespace Sys2Proof.Machine

/-- Every key of `m` lies above `k`. -/
def Memory.above (k : Nat) (m : Memory) : Prop := ∀ p ∈ m, k < readKey p.1

theorem readKey_inj {a b : ReadEndpoint} (h : readKey a = readKey b) : a = b := by
  cases a <;> cases b <;> simp [readKey] at h ⊢
  exact BitVec.eq_of_toNat_eq h

theorem Memory.wf_cons (e : ReadEndpoint) (q : Bytes) (m : Memory) :
    Memory.wf ((e, q) :: m) = true ↔ q ≠ [] ∧ Memory.above (readKey e) m ∧ m.wf = true := by
  simp [Memory.wf, Memory.above, and_assoc]

theorem Memory.waiting_of_above {k : Nat} {m : Memory} {ep : ReadEndpoint} (h : m.above k) (hk : readKey ep ≤ k) :
    m.waiting ep = [] := by
  induction m with
  | nil => rfl
  | cons p m ih =>
    have hp : k < readKey p.1 := h p (by simp)
    have hne : ¬ p.1 = ep := fun he => by rw [he] at hp; omega
    simp only [Memory.waiting, hne, if_false]
    exact ih fun q hq => h q (by simp [hq])

theorem Memory.above_put {k : Nat} {m : Memory} {ep : ReadEndpoint} {q : Bytes} (h : m.above k)
    (hk : k < readKey ep) : (m.put ep q).above k := by
  induction m with
  | nil =>
    by_cases hq : q = []
    · simp [Memory.put, hq, Memory.above]
    · simpa [Memory.put, hq, Memory.above] using hk
  | cons p m ih =>
    have hp : k < readKey p.1 := h p (by simp)
    have hm : Memory.above k m := fun r hr => h r (by simp [hr])
    have := ih hm
    intro r hr
    simp only [Memory.put] at hr
    split at hr
    · split at hr
      · exact hm r hr
      · rcases List.mem_cons.1 hr with rfl | hr
        · exact hk
        · exact hm r hr
    · split at hr
      · split at hr
        · exact h r hr
        · rcases List.mem_cons.1 hr with rfl | hr
          · exact hk
          · exact h r hr
      · rcases List.mem_cons.1 hr with rfl | hr
        · exact hp
        · exact this r hr

/-- Setting a side keeps the canonical form. -/
theorem Memory.put_wf {m : Memory} (ep : ReadEndpoint) (q : Bytes) (h : m.wf = true) : (m.put ep q).wf = true := by
  induction m with
  | nil => by_cases hq : q = [] <;> simp [Memory.put, hq, Memory.wf]
  | cons p m ih =>
    obtain ⟨hne, hab, hw⟩ := (Memory.wf_cons p.1 p.2 m).1 h
    simp only [Memory.put]
    split
    · rename_i he
      split
      · exact hw
      · rename_i hq
        exact (Memory.wf_cons _ _ _).2 ⟨hq, he ▸ hab, hw⟩
    · rename_i he
      split
      · rename_i hlt
        split
        · exact h
        · rename_i hq
          refine (Memory.wf_cons _ _ _).2 ⟨hq, fun r hr => ?_, h⟩
          rcases List.mem_cons.1 hr with rfl | hr
          · exact hlt
          · exact Nat.lt_trans hlt (hab r hr)
      · rename_i hlt
        refine (Memory.wf_cons _ _ _).2 ⟨hne, Memory.above_put hab ?_, ih hw⟩
        have : readKey p.1 ≠ readKey ep := fun hk => he (readKey_inj hk)
        omega

/-- A side that was just set holds what it was set to. -/
theorem Memory.waiting_put_same {m : Memory} (ep : ReadEndpoint) (q : Bytes) (h : m.wf = true) :
    (m.put ep q).waiting ep = q := by
  induction m with
  | nil => by_cases hq : q = [] <;> simp [Memory.put, Memory.waiting, hq]
  | cons p m ih =>
    obtain ⟨hne, hab, hw⟩ := (Memory.wf_cons p.1 p.2 m).1 h
    simp only [Memory.put]
    split
    · rename_i he
      split
      · rename_i hq
        rw [hq]
        exact Memory.waiting_of_above hab (by rw [he])
      · simp [Memory.waiting]
    · rename_i he
      split
      · rename_i hlt
        split
        · rename_i hq
          simp only [Memory.waiting, he, if_false, hq]
          exact Memory.waiting_of_above hab (by omega)
        · simp [Memory.waiting]
      · simp only [Memory.waiting, he, if_false]
        exact ih hw

/-- Setting a side leaves every other side alone. -/
theorem Memory.waiting_put_other {m : Memory} {ep ep' : ReadEndpoint} (q : Bytes) (hne : ep' ≠ ep) :
    (m.put ep q).waiting ep' = m.waiting ep' := by
  have hne' : ¬ ep = ep' := fun h => hne h.symm
  induction m with
  | nil => by_cases hq : q = [] <;> simp [Memory.put, Memory.waiting, hq, hne']
  | cons p m ih =>
    simp only [Memory.put]
    split
    · rename_i he
      split <;> simp [Memory.waiting, he, hne']
    · split
      · split <;> simp [Memory.waiting, hne']
      · simp only [Memory.waiting, ih]

theorem consume_inbound_wf {s : State} (ep : ReadEndpoint) (n : Nat) (h : s.inbound.wf = true) :
    (s.consume ep n).inbound.wf = true := Memory.put_wf _ _ h

theorem arrive_inbound_wf {s : State} (ep : ReadEndpoint) (bytes : Bytes) (h : s.inbound.wf = true) :
    (s.arrive ep bytes).inbound.wf = true := Memory.put_wf _ _ h

/-- Reads consume (20_memory.md R58): what `peek` showed is gone and the rest waits. -/
theorem waiting_consume_same {s : State} (ep : ReadEndpoint) (n : Nat) (h : s.inbound.wf = true) :
    (s.consume ep n).inbound.waiting ep = (s.inbound.waiting ep).drop n := Memory.waiting_put_same _ _ h

end Sys2Proof.Machine
end

