-- ==== Sys2Proof/Laws/PerInstr.lean ====
section
/-! SUPPORT. Statements about instructions as syntax, one lemma per constructor. -/

namespace Sys2Proof.Laws.HostPort

/-- The command port is the port of exactly the rows the host can issue (30_encoding.md R89, R102). -/
def Statement (i : Instr) : Prop := (encode i).map Prod.fst = some .cmd ↔ i.hostIssuable = true

theorem encode (address : Address) (data : Bytes) (bus : Byte) : Statement (.encode address data bus) := by
  simp [Statement, Sys2Proof.encode, Instr.hostIssuable]
theorem decode (slot : Slot) : Statement (.decode slot) := by
  simp [Statement, Sys2Proof.encode, Instr.hostIssuable]
theorem sendmany (frames : List TxFrame) : Statement (.sendmany frames) := by
  simp [Statement, Sys2Proof.encode, Instr.hostIssuable]
theorem canrecv : Statement (.canrecv) := by
  simp [Statement, Sys2Proof.encode, Instr.hostIssuable]
theorem ksend (message : Bytes) (bus : Byte) (cs : Bool) : Statement (.ksend message bus cs) := by
  simp [Statement, Sys2Proof.encode, Instr.hostIssuable]
theorem krecv (bus : Byte) : Statement (.krecv bus) := by
  simp [Statement, Sys2Proof.encode, Instr.hostIssuable]
theorem reservedOp0 : Statement (.reservedOp0) := by
  simp [Statement, Sys2Proof.encode, Instr.hostIssuable]
theorem reservedOp7 : Statement (.reservedOp7) := by
  simp [Statement, Sys2Proof.encode, Instr.hostIssuable]
theorem reservedOp8 : Statement (.reservedOp8) := by
  simp [Statement, Sys2Proof.encode, Instr.hostIssuable]
theorem reservedOp9 : Statement (.reservedOp9) := by
  simp [Statement, Sys2Proof.encode, Instr.hostIssuable]
theorem reservedOpA : Statement (.reservedOpA) := by
  simp [Statement, Sys2Proof.encode, Instr.hostIssuable]
theorem reservedOpB : Statement (.reservedOpB) := by
  simp [Statement, Sys2Proof.encode, Instr.hostIssuable]
theorem reservedOpC : Statement (.reservedOpC) := by
  simp [Statement, Sys2Proof.encode, Instr.hostIssuable]
theorem reservedOpD : Statement (.reservedOpD) := by
  simp [Statement, Sys2Proof.encode, Instr.hostIssuable]
theorem reservedOpE : Statement (.reservedOpE) := by
  simp [Statement, Sys2Proof.encode, Instr.hostIssuable]
theorem reservedOpF : Statement (.reservedOpF) := by
  simp [Statement, Sys2Proof.encode, Instr.hostIssuable]
theorem wrretry (ep : WriteEndpoint) (buf : Bytes) : Statement (.wrretry ep buf) := by
  simp [Statement, Sys2Proof.encode, Instr.hostIssuable]
theorem rdretry (ep : ReadEndpoint) (max : Nat) : Statement (.rdretry ep max) := by
  simp [Statement, Sys2Proof.encode, Instr.hostIssuable]
theorem kdrain (bus : Byte) : Statement (.kdrain bus) := by
  simp [Statement, Sys2Proof.encode, Instr.hostIssuable]
theorem kecho (chunk : Bytes) (bus : Byte) (k : Nat) (final : Bool) : Statement (.kecho chunk bus k final) := by
  simp [Statement, Sys2Proof.encode, Instr.hostIssuable]
theorem rdexact (ep : ReadEndpoint) (n : Byte) (caller : RdCaller) : Statement (.rdexact ep n caller) := by
  simp [Statement, Sys2Proof.encode, Instr.hostIssuable]
theorem canslotW1Std (a : BitVec 11) (x : BitVec 18) (y t : BitVec 1) : Statement (.canslotW1Std a x y t) := by
  simp [Statement, Sys2Proof.encode, Instr.hostIssuable]
theorem canslotW1Ext (a : BitVec 29) (y t : BitVec 1) : Statement (.canslotW1Ext a y t) := by
  simp [Statement, Sys2Proof.encode, Instr.hostIssuable]
theorem canslotW1StdEnc (a : BitVec 11) : Statement (.canslotW1StdEnc a) := by
  simp [Statement, Sys2Proof.encode, Instr.hostIssuable]
theorem canslotW1ExtEnc (a : BitVec 29) : Statement (.canslotW1ExtEnc a) := by
  simp [Statement, Sys2Proof.encode, Instr.hostIssuable]
theorem canslotW2Len0to7 (c : BitVec 16) (x : BitVec 4) (b : Byte) (l : BitVec 3) : Statement (.canslotW2Len0to7 c x b l) := by
  simp [Statement, Sys2Proof.encode, Instr.hostIssuable]
theorem canslotW2Len8 (c : BitVec 16) (x : BitVec 4) (b : Byte) : Statement (.canslotW2Len8 c x b) := by
  simp [Statement, Sys2Proof.encode, Instr.hostIssuable]
theorem canslotW2Illegal9 (c : BitVec 16) (x : BitVec 4) (b : Byte) : Statement (.canslotW2Illegal9 c x b) := by
  simp [Statement, Sys2Proof.encode, Instr.hostIssuable]
theorem canslotW2Illegal10to11 (c : BitVec 16) (x : BitVec 4) (b : Byte) (l : BitVec 1) : Statement (.canslotW2Illegal10to11 c x b l) := by
  simp [Statement, Sys2Proof.encode, Instr.hostIssuable]
theorem canslotW2Illegal12to15 (c : BitVec 16) (x : BitVec 4) (b : Byte) (l : BitVec 2) : Statement (.canslotW2Illegal12to15 c x b l) := by
  simp [Statement, Sys2Proof.encode, Instr.hostIssuable]
theorem canslotW2Enc (b : Byte) (l : BitVec 4) : Statement (.canslotW2Enc b l) := by
  simp [Statement, Sys2Proof.encode, Instr.hostIssuable]
theorem canslotPayload (data : Bytes) : Statement (.canslotPayload data) := by
  simp [Statement, Sys2Proof.encode, Instr.hostIssuable]
theorem kbuf (message : Bytes) (cs : Bool) : Statement (.kbuf message cs) := by
  simp [Statement, Sys2Proof.encode, Instr.hostIssuable]
theorem kchunk (b : Byte) (chunk : Bytes) : Statement (.kchunk b chunk) := by
  simp [Statement, Sys2Proof.encode, Instr.hostIssuable]
theorem krxmsgHdrLegal (h n : Byte) : Statement (.krxmsgHdrLegal h n) := by
  simp [Statement, Sys2Proof.encode, Instr.hostIssuable]
theorem krxmsgHdrIllegal (h : Byte) (n : BitVec 1) : Statement (.krxmsgHdrIllegal h n) := by
  simp [Statement, Sys2Proof.encode, Instr.hostIssuable]
theorem rsp (r : Response) : Statement (.rsp r) := by
  simp [Statement, Sys2Proof.encode, Instr.hostIssuable]

end Sys2Proof.Laws.HostPort
end

