-- ==== Sys2Proof/Laws/Run.lean ====
section
/-! SUPPORT. Runs of several steps, one step at a time, and what a step makes of each kind of transport answer. -/

namespace Sys2Proof.Machine

theorem run_zero (s : State) : Host.Core.run core 0 s = .next s := rfl

/-- A run of any machine whose first step goes on. -/
theorem run_succ_of_next (M : Host.Core) (k : Nat) (s t : M.State) (h : M.step s = .next t) :
    M.run (k + 1) s = M.run k t := by
  rw [Host.Core.run, h]

/-- A run whose first step goes on. -/
theorem run_succ {s t : State} {k : Nat} (h : step s = .next t) :
    Host.Core.run core (k + 1) s = Host.Core.run core k t := run_succ_of_next core k s t h

/-- A run whose first step is refused. -/
theorem run_refused_of_refused (M : Host.Core) (k : Nat) (s : M.State) (r : M.Refusal) (h : M.step s = .refused r) :
    M.run (k + 1) s = .refused r := by
  rw [Host.Core.run, h]

/-- Two runs, one after the other. -/
theorem run_add {s t : State} {k j : Nat} (h : Host.Core.run core k s = .next t) :
    Host.Core.run core (k + j) s = Host.Core.run core j t := by
  induction k generalizing s with
  | zero => cases h; rw [Nat.zero_add]
  | succ k ih =>
    rw [show k + 1 + j = (k + j) + 1 by omega]
    cases hs : step s with
    | next u =>
      rw [run_succ hs] at h ⊢
      exact ih h
    | fault r => exact nomatch r
    | refused r =>
      rw [run_refused_of_refused core k s r hs] at h
      cases h

/-- An answer at the head of the inbox is resumed. -/
theorem step_answer {s : State} {a : Answer} {rest : List Event} (hl : s.latch = none)
    (hi : s.inbox = .answer a :: rest) : step s = resume a { s with inbox := rest } := step_event hl hi

/-- A command at the head of the inbox of an idle block is run. -/
theorem step_command {s : State} {bytes more : Bytes} {i : Instr} {rest : List Event} (hl : s.latch = none)
    (hp : s.phase = .idle) (hi : s.inbox = .command bytes :: rest) (hd : decode .cmd bytes = .ok (i, more)) :
    step s = exec i { s with inbox := rest } := by
  rw [step_event hl hi]
  simp only [handleEvent, takeCommand, hp, runBytes, hd]

/-- The answer to a write, with the connection up. -/
theorem step_write {s : State} {a : Answer} {rest : List Event} {p : WritePoint} {ep : WriteEndpoint} {buf : Bytes}
    (hl : s.latch = none) (hc : s.conn = .connected) (hp : s.phase = .writing p ep buf) (hi : s.inbox = .answer a :: rest) :
    step s = .next (resumeWrite p ep buf a { s with inbox := rest }) := by
  rw [step_answer hl hi]
  simp only [resume, hp, hc, Answer.under]

/-- The answer to a read, with the connection up. -/
theorem step_read {s : State} {a : Answer} {rest : List Event} {p : ReadPoint} {ep : ReadEndpoint} {max : Nat}
    (hl : s.latch = none) (hc : s.conn = .connected) (hp : s.phase = .reading p ep max) (hi : s.inbox = .answer a :: rest) :
    step s = resumeRead p ep max a { s with inbox := rest } := by
  rw [step_answer hl hi]
  simp only [resume, hp, hc, Answer.under]

/-- A read answered Ok within its request: the bytes are consumed and delivered. -/
theorem step_read_ok {s : State} {n : Nat} {rest : List Event} {p : ReadPoint} {ep : ReadEndpoint} {max : Nat}
    (hl : s.latch = none) (hc : s.conn = .connected) (hp : s.phase = .reading p ep max)
    (hi : s.inbox = .answer (.ok n) :: rest) (hm : ((s.inbound.waiting ep).take n).length ≤ max) :
    step s = .next (deliver p ep ((s.inbound.waiting ep).take n) ({ s with inbox := rest }.consume ep n)) := by
  rw [step_read hl hc hp hi]
  exact if_neg (Nat.not_lt.2 hm)

end Sys2Proof.Machine
end

