-- ==== Sys2Proof/Tests/Slice0.lean ====
section
/-! SUPPORT. Tests on the spec's own vectors (95_test_vectors.md), the smoke test of WellFormed, and for every statement that
has hypotheses a concrete case that meets them. -/

namespace Sys2Proof.Tests

open Sys2Proof Sys2Proof.Machine

/-! ### Helpers -/

/-- The state of a next outcome. -/
def nextOf : Host.Outcome State Fault Refusal → Option State
  | .next s => some s
  | .fault _ => none
  | .refused _ => none

/-- The refusal of a refused outcome. -/
def refusalOf : Host.Outcome State Fault Refusal → Option Refusal
  | .next _ => none
  | .fault _ => none
  | .refused r => some r

/-- Reset with the connection up. -/
def up : State := { State.reset with conn := .connected }

/-- A command or other event about to be taken by an idle block. -/
def upWith (e : Event) : State := { up with inbox := [e] }

/-- A read at a suspension point about to be answered with the first `n` of the bytes that wait. -/
def reading (p : ReadPoint) (ep : ReadEndpoint) (max : Nat) (r : Regs) (wait : Bytes) (n : Nat) : State :=
  { up with phase := .reading p ep max, regs := r, inbound := Memory.put [] ep wait, inbox := [.answer (.ok n)] }

/-- A write at a suspension point about to be answered. -/
def writing (p : WritePoint) (ep : WriteEndpoint) (buf : Bytes) (r : Regs) (a : Answer) : State :=
  { up with phase := .writing p ep buf, regs := r, inbox := [.answer a] }

/-- VE2, VD1: the slot of (0x123, [01 02], 0). -/
def slot123 : Slot := #v[0x01, 0x00, 0x60, 0x24, 0x02, 0x00, 0x00, 0x00, 0x01, 0x02, 0, 0, 0, 0, 0, 0]
/-- VE4, VD2: the slot of (0x800, [AA], 1). -/
def slot800 : Slot := #v[0x05, 0x40, 0x00, 0x00, 0x11, 0x00, 0x00, 0x00, 0xAA, 0, 0, 0, 0, 0, 0, 0]
/-- VD7: LENGTH 9. -/
def slotLen9 : Slot := #v[0x01, 0x00, 0x60, 0x24, 0x09, 0x00, 0x00, 0x00, 1, 2, 3, 4, 5, 6, 7, 8]
/-- VD12: VD1 with the unread places set. -/
def slot123junk : Slot := #v[0xFB, 0xFF, 0x7F, 0x24, 0x02, 0x00, 0x00, 0x00, 0x01, 0x02, 0xFF, 0xFF, 0xFF, 0xFF, 0xFF, 0xFF]
/-- VD6: eight bytes of payload. -/
def slotLen8 : Slot := #v[0x01, 0x00, 0xE0, 0xFF, 0x18, 0x00, 0xCD, 0xAB, 0x11, 0x22, 0x33, 0x44, 0x55, 0x66, 0x77, 0x88]
/-- VD8: LENGTH 15. -/
def slotLen15 : Slot := #v[0x01, 0x00, 0x60, 0x24, 0x0F, 0x00, 0x00, 0x00, 1, 2, 3, 4, 5, 6, 7, 8]
def f123 : TxFrame := ⟨0x123, [0x01, 0x02], 0⟩
def f800 : TxFrame := ⟨0x800, [0xAA], 1⟩
def nine : Bytes := [0, 1, 2, 3, 4, 5, 6, 7, 8]
def eight : Bytes := [1, 2, 3, 4, 5, 6, 7, 8]
def sixteen : Bytes := [1, 2, 3, 4, 5, 6, 7, 8, 9, 10, 11, 12, 13, 14, 15, 16]
def fifteen : Bytes := [1, 2, 3, 4, 5, 6, 7, 8, 9, 10, 11, 12, 13, 14, 15]
/-- The registers of a KSEND of one chunk [02 10 12]. -/
def oneChunk : Regs :=
  { Regs.reset with
    kmsg := [0x02, 0x10]
    csen := true
    csum := 0x12
    kbuf := [0x02, 0x10, 0x12]
    nch := 1
    chunk := [0x02, 0x10, 0x12]
    busr := 2
    kfinal := true
    need := 3 }
/-- The same with a second chunk to come. -/
def twoChunks : Regs :=
  { oneChunk with kbuf := fifteen ++ [0x78], chunk := fifteen, nch := 2, kfinal := false, need := 15 }
/-- A state about to take a unit input word. -/
def latched (port : Port) (bytes : Bytes) : State := { up with latch := some (port, bytes) }

/-! ### WellFormed: each check refuses -/

theorem test_wf_rdretry_zero : (Instr.rdretry .canRx 0).wellFormed = false := by decide
theorem test_wf_kecho_empty : (Instr.kecho [] 0 0 true).wellFormed = false := by decide
theorem test_wf_kecho_sixteen : (Instr.kecho sixteen 0 0 true).wellFormed = false := by decide
theorem test_wf_rdexact_body_254 : (Instr.rdexact .canRx 254 .body).wellFormed = false := by decide
theorem test_wf_rdexact_header_three : (Instr.rdexact .canRx 3 .header).wellFormed = false := by decide
theorem test_wf_rdexact_echo_zero : (Instr.rdexact .canRx 0 .echo).wellFormed = false := by decide
theorem test_wf_rdexact_echo_sixteen : (Instr.rdexact .canRx 16 .echo).wellFormed = false := by decide
theorem test_wf_w2enc_nine : (Instr.canslotW2Enc 0 9).wellFormed = false := by decide
theorem test_wf_payload_nine : (Instr.canslotPayload nine).wellFormed = false := by decide
theorem test_wf_kchunk_empty : (Instr.kchunk 0 []).wellFormed = false := by decide
theorem test_wf_kchunk_sixteen : (Instr.kchunk 0 sixteen).wellFormed = false := by decide
theorem test_wf_header_one : (Instr.krxmsgHdrLegal 0 1).wellFormed = false := by decide
theorem test_wf_rsp_frame_nine : (Instr.rsp (.ok (.frame ⟨0, nine, 0, 0⟩))).wellFormed = false := by decide
theorem test_wf_rsp_frames_nine : (Instr.rsp (.ok (.frames [⟨0, nine, 0, 0⟩] 0))).wellFormed = false := by decide
theorem test_wf_rsp_frames_many : (Instr.rsp (.ok (.frames [] 257))).wellFormed = false := by decide
theorem test_wf_rsp_message_one : (Instr.rsp (.ok (.message [0]))).wellFormed = false := by decide
theorem test_wf_rsp_message_long (m : Bytes) (h : m.length = 256) : (Instr.rsp (.ok (.message m))).wellFormed = false := by
  simp [Instr.wellFormed, Response.wellFormed, Result.wellFormed, h]

/-! ### Decoding: words written out from the spec's encodings -/

/-- op 0x1 (R89), VE2's operands in the layout of log entry 8. -/
theorem test_decode_encode : decode .cmd [0x01, 0x23, 0x01, 0x00, 0x00, 0x00, 1, 0x01, 1, 0x02, 0] =
    .ok (.encode 0x123 [0x01, 0x02] 0, []) := by decide
/-- op 0x2. -/
theorem test_decode_decode : decode .cmd (0x02 :: slot123.toList) = .ok (.decode slot123, []) := by decide
/-- op 0x3, VM3. -/
theorem test_decode_sendmany_empty : decode .cmd [0x03, 0] = .ok (.sendmany [], []) := by decide
/-- op 0x3, one frame of VM1. -/
theorem test_decode_sendmany : decode .cmd [0x03, 1, 0x00, 0x08, 0x00, 0x00, 1, 1, 0xAA, 0, 0] =
    .ok (.sendmany [f800], []) := by decide
/-- op 0x4. -/
theorem test_decode_canrecv : decode .cmd [0x04] = .ok (.canrecv, []) := by decide
/-- op 0x5, VK1. -/
theorem test_decode_ksend : decode .cmd [0x05, 2, 1, 1, 0x02, 1, 0x10, 0] = .ok (.ksend [0x02, 0x10] 2 true, []) := by decide
/-- op 0x6, VF6. -/
theorem test_decode_krecv : decode .cmd [0x06, 1] = .ok (.krecv 1, []) := by decide
/-- The reserved op values (R102). -/
theorem test_decode_reserved : [0x00, 0x07, 0x08, 0x09, 0x0A, 0x0B, 0x0C, 0x0D, 0x0E, 0x0F].map (fun b => decode .cmd [b]) =
    [.reservedOp0, .reservedOp7, .reservedOp8, .reservedOp9, .reservedOpA, .reservedOpB, .reservedOpC, .reservedOpD,
      .reservedOpE, .reservedOpF].map (fun i => .ok (i, [])) := by decide
/-- VD12: word1 0x247FFFFB, standard, bits 20:3 and bit 1 set. -/
theorem test_decode_w1_std : decode .word1Rx [0xFB, 0xFF, 0x7F, 0x24] = .ok (.canslotW1Std 0x123 0x3FFFF 1 1, []) := by decide
/-- VD13: word1 0x247FFFFE, extended, identifier 0x48FFFFF. -/
theorem test_decode_w1_ext : decode .word1Rx [0xFE, 0xFF, 0x7F, 0x24] = .ok (.canslotW1Ext 0x48FFFFF 1 0, []) := by decide
/-- VE3: word1 0xFFE00001. -/
theorem test_decode_w1_std_enc : decode .word1Tx [0x01, 0x00, 0xE0, 0xFF] = .ok (.canslotW1StdEnc 0x7FF, []) := by decide
/-- VE6: word1 0xC6D78885. -/
theorem test_decode_w1_ext_enc : decode .word1Tx [0x85, 0x88, 0xD7, 0xC6] = .ok (.canslotW1ExtEnc 0x18DAF110, []) := by decide
/-- VD5: word2 0x1234F003. -/
theorem test_decode_w2_len3 : decode .word2Rx [0x03, 0xF0, 0x34, 0x12] = .ok (.canslotW2Len0to7 0x1234 0xF 0 3, []) := by decide
/-- VD6: word2 0xABCD0018. -/
theorem test_decode_w2_len8 : decode .word2Rx [0x18, 0x00, 0xCD, 0xAB] = .ok (.canslotW2Len8 0xABCD 0 1, []) := by decide
/-- VD15: word2 0x19. -/
theorem test_decode_w2_nine : decode .word2Rx [0x19, 0x00, 0x00, 0x00] = .ok (.canslotW2Illegal9 0 0 1, []) := by decide
/-- LENGTH 0xB (R98, `101x`). -/
theorem test_decode_w2_eleven : decode .word2Rx [0x0B, 0x00, 0x00, 0x00] = .ok (.canslotW2Illegal10to11 0 0 0 1, []) := by decide
/-- VD9: all ones. -/
theorem test_decode_w2_fifteen : decode .word2Rx [0xFF, 0xFF, 0xFF, 0xFF] =
    .ok (.canslotW2Illegal12to15 0xFFFF 0xF 0xFF 3, []) := by decide
/-- VE5: word2 0xFF8. -/
theorem test_decode_w2_enc : decode .word2Tx [0xF8, 0x0F, 0x00, 0x00] = .ok (.canslotW2Enc 0xFF 8, []) := by decide
/-- VK1: [02 02 10 12]. -/
theorem test_decode_kchunk : decode .kchunk [0x02, 0x02, 0x10, 0x12] = .ok (.kchunk 2 [0x02, 0x10, 0x12], []) := by decide
/-- VF1: header [00 05]. -/
theorem test_decode_header : decode .krxHdr [0x00, 0x05] = .ok (.krxmsgHdrLegal 0 5, []) := by decide
/-- VF4: header [80 01]. -/
theorem test_decode_header_one : decode .krxHdr [0x80, 0x01] = .ok (.krxmsgHdrIllegal 0x80 1, []) := by decide
/-- STATUS 0x3 (R226). -/
theorem test_decode_rsp : decode .rsp [0x03] = .ok (.rsp (.error .protocolError), []) := by decide
/-- A word ENCODE never writes (R101), a STATUS not used (R226), an address of 2^29 (D4): rejected by name. -/
theorem test_reject_not_image : decode .word1Tx [0x00, 0x00, 0x00, 0x00] = .error .notAnEncodeImage := by decide
theorem test_reject_status : decode .rsp [0x07] = .error .statusUnused := by decide
theorem test_reject_address : decode .cmd [0x01, 0, 0, 0, 0x20, 0, 0] = .error .addressOutOfRange := by decide

/-! ### FrameCodec -/

/-- VE2. -/
theorem test_encode_std : (nextOf (exec (.encode 0x123 [0x01, 0x02] 0) State.reset)).map (fun s => (s.regs.w1, s.regs.w2, s.rsps)) =
    some (0x24600001, 0x00000002, [.ok (.slot slot123)]) := by decide
/-- VE5. -/
theorem test_encode_ext : (nextOf (exec (.encode 0x1FFFFFFF eight 255) State.reset)).map (fun s => s.regs.slot.toList) =
    some ([0xFD, 0xFF, 0xFF, 0xFF, 0xF8, 0x0F, 0x00, 0x00] ++ eight) := by decide
/-- VD10. -/
theorem test_decode_ignored_bits : (nextOf (exec (.decode #v[0xFB, 0xFF, 0xFF, 0xFF, 0xF8, 0xFF, 0xFF, 0xFF, 1, 2, 3, 4, 5, 6, 7, 8])
    State.reset)).map (·.rsps) = some [.ok (.frame ⟨0x7FF, eight, 255, 0xFFFF⟩)] := by decide
/-- VD14. -/
theorem test_decode_ext : (nextOf (exec (.decode #v[0x84, 0x88, 0xD7, 0xC6, 0x28, 0x00, 0x35, 0x12, 0xAA, 0xAA, 0xAA, 0xAA, 0xAA, 0xAA, 0xAA, 0xAA])
    State.reset)).map (·.rsps) = some [.ok (.frame ⟨0x18DAF110, List.replicate 8 0xAA, 2, 0x1235⟩)] := by decide
/-- VD7. -/
theorem test_decode_length_nine : (nextOf (exec (.decode slotLen9) State.reset)).map (·.rsps) = some [.error .formatError] := by decide
/-- VD13: the identifier of word1 0x247FFFFE. -/
theorem test_word1_ext : (nextOf (exec (.canslotW1Ext 0x48FFFFF 1 0) State.reset)).map (fun s => (s.regs.w1, s.regs.ext, s.regs.addr)) =
    some (0x247FFFFE, true, 0x48FFFFF) := by decide
/-- VD12. -/
theorem test_word1_std : (nextOf (exec (.canslotW1Std 0x123 0x3FFFF 1 1) State.reset)).map (fun s => (s.regs.w1, s.regs.ext, s.regs.addr)) =
    some (0x247FFFFB, false, 0x123) := by decide
/-- VD5: word2 0x1234F003 on its slot. -/
theorem test_word2_legal : (nextOf (exec (.canslotW2Len0to7 0x1234 0xF 0 3) { State.reset with regs := { Regs.reset with
    slot := #v[0x0C, 0, 0, 0, 0x03, 0xF0, 0x34, 0x12, 0xDE, 0xAD, 0xBE, 0xEF, 0, 0, 0, 0] } })).map
    (fun s => (s.regs.w2, s.regs.data, s.regs.busr, s.regs.ctr)) = some (0x1234F003, [0xDE, 0xAD, 0xBE], 0, 0x1234) := by decide
/-- VD6. -/
theorem test_word2_len8 : (nextOf (exec (.canslotW2Len8 0xABCD 0 1) { State.reset with regs := { Regs.reset with slot := slotLen8 } })).map
    (fun s => (s.regs.len, s.regs.data)) = some (8, [0x11, 0x22, 0x33, 0x44, 0x55, 0x66, 0x77, 0x88]) := by decide
/-- VD15, R98: the three illegal rows. -/
theorem test_word2_illegal : [Instr.canslotW2Illegal9 0 0 1, .canslotW2Illegal10to11 0 0 1 0, .canslotW2Illegal12to15 0 0 1 3].map
    (fun i => (nextOf (exec i State.reset)).map (fun s => (s.regs.w2, s.rsps))) =
    [some (0x19, [.error .formatError]), some (0x1A, [.error .formatError]), some (0x1F, [.error .formatError])] := by decide
/-- VE3, VE4, VE5: the images of the words. -/
theorem test_images : [Instr.canslotW1StdEnc 0x7FF, .canslotW1ExtEnc 0x800, .canslotW2Enc 255 8].map
    (fun i => (nextOf (exec i State.reset)).map (fun s => (s.regs.w1, s.regs.w2))) =
    [some (0xFFE00001, 0), some (0x00004005, 0), some (0, 0xFF8)] := by decide
/-- VE2: the payload row on W1 and W2. -/
theorem test_payload : (nextOf (exec (.canslotPayload [0x01, 0x02]) { State.reset with regs := { Regs.reset with
    w1 := 0x24600001, w2 := 2 } })).map (·.regs.slot) = some slot123 := by decide

/-! ### BusMultiplexer and TransportRetry -/

/-- VM1. -/
theorem test_sendmany_batched : (nextOf (exec (.sendmany [f123, f800]) up)).map (·.calls) =
    some [.write .canTx (slot123.toList ++ slot800.toList)] := by decide
/-- VM5: a bad second frame, connection not even up. -/
theorem test_sendmany_bad_frame : (nextOf (exec (.sendmany [f123, ⟨2, nine, 0⟩]) State.reset)).map (fun s => (s.calls, s.rsps)) =
    some ([], [.error .callerError]) := by decide
/-- VM2, the second write. -/
theorem test_sendmany_second_slot : (nextOf (step { (writing (.smWr 0) .canTx slot123.toList
    { Regs.reset with frames := [f123, f800], txbuf := slot123.toList ++ slot800.toList, att := 1 } (.ok 16)) with
      cfg := { Params.initial with batch := false } })).map (fun s => (s.calls, s.rsps)) =
    some ([.write .canTx slot800.toList], []) := by decide
/-- VM10: VD1 ++ VD7 ++ VD2 under DROP. -/
theorem test_canrecv_drop : (nextOf (step (reading .crRd .canRx 4096 Regs.reset
    (slot123.toList ++ slotLen9.toList ++ slot800.toList) 48))).map (·.rsps) =
    some [.ok (.frames [⟨0x123, [0x01, 0x02], 0, 0⟩, ⟨0x800, [0xAA], 1, 0⟩] 1)] := by decide
/-- VM11. -/
theorem test_canrecv_abort : (nextOf (step { reading .crRd .canRx 4096 Regs.reset
    (slot123.toList ++ slotLen9.toList ++ slot800.toList) 48 with cfg := { Params.initial with rxErrPolicy := .abort } })).map (·.rsps) =
    some [.error .formatError] := by decide
/-- VR1: the second of three writes. -/
theorem test_wrretry_again : (nextOf (step (writing (.smWr 0) .canTx slot123.toList { Regs.reset with att := 1 } .transientIOError))).map
    (fun s => (s.calls, s.regs.att)) = some ([.write .canTx slot123.toList], 2) := by decide
/-- VR6: RETRY_LIMIT 1. -/
theorem test_wrretry_exhausted : (nextOf (step { (writing (.smWr 0) .canTx [] { Regs.reset with att := 1 } .transientIOError) with
    cfg := { Params.initial with retryLimit := some 1 } })).map (·.rsps) = some [.error .transientIOError] := by decide
/-- VR2: the first read. -/
theorem test_rdretry : (nextOf (exec (.rdretry .canRx 4096) up)).map (·.calls) = some [.read .canRx 4096] := by decide

/-! ### The kline path -/

/-- VK6, VK4: the checksum wraps. -/
theorem test_kbuf : (nextOf (exec (.kbuf [0x81, 0x12, 0xF1, 0x81] true) State.reset)).map (fun s => (s.regs.csum, s.regs.kbuf)) =
    some (0x05, [0x81, 0x12, 0xF1, 0x81, 0x05]) := by decide
/-- VK1: the drain reads empty and the one chunk goes out. -/
theorem test_ksend_first_chunk : (nextOf (step (reading .ksDrain (.klRx 2) 64
    { Regs.reset with kmsg := [0x02, 0x10], csen := true, busr := 2 } [] 64))).map (·.calls) =
    some [.write .klTx [0x02, 0x02, 0x10, 0x12]] := by decide
/-- VK3: an empty message without checksum ends after the drain. -/
theorem test_ksend_nothing : (nextOf (step (reading .ksDrain (.klRx 2) 64 { Regs.reset with busr := 2 } [] 1))).map
    (fun s => (s.calls, s.rsps)) = some ([], [.ok .nothing]) := by decide
/-- P2 1a: stale bytes are discarded and the drain reads again. -/
theorem test_kdrain : (nextOf (step (reading .ksDrain (.klRx 2) 64 { Regs.reset with busr := 2 } [0x55, 0x66] 2))).map
    (fun s => (s.calls, s.inbound)) = some ([.read (.klRx 2) 64], []) := by decide
/-- VK1's write. -/
theorem test_kchunk : (nextOf (exec (.kchunk 2 [0x02, 0x10, 0x12]) up)).map (·.calls) =
    some [.write .klTx [0x02, 0x02, 0x10, 0x12]] := by decide
/-- VX1: three bytes are asked for. -/
theorem test_kecho : (nextOf (exec (.kecho [0x02, 0x10, 0x12] 2 0 true) up)).map (·.calls) = some [.read (.klRx 2) 3] := by decide
/-- VX3: a wrong final echo under SOURCE. -/
theorem test_echo_final : (nextOf (step (reading (.ksEcho 0) (.klRx 2) 3 oneChunk [0x02, 0x10, 0x13] 3))).map
    (fun s => (s.rsps, s.klog)) = some ([.error .protocolError], []) := by decide
/-- VX4: a wrong intermediate echo is logged. -/
theorem test_echo_logged : (nextOf (step (reading (.ksEcho 0) (.klRx 2) 3 { oneChunk with kfinal := false } [0x02, 0x10, 0x13] 3))).map
    (fun s => (s.klog, s.logs)) = some ([⟨0, [0x02, 0x10, 0x12], [0x02, 0x10, 0x13]⟩], [⟨0, [0x02, 0x10, 0x12], [0x02, 0x10, 0x13]⟩]) := by
  decide
/-- VX2: a short answer is kept and the rest asked for. -/
theorem test_rdexact_again : (nextOf (step (reading (.ksEcho 0) (.klRx 2) 3 oneChunk [0x02] 3))).map
    (fun s => (s.calls, s.regs.acc)) = some ([.read (.klRx 2) 2], [0x02]) := by decide
/-- VF3: a remainder of 0 bytes needs no read. -/
theorem test_rdexact_none : (nextOf (exec (.rdexact (.klRx 0) 0 .body) { up with regs := { Regs.reset with hdr := (0x80, 2) } })).map
    (fun s => (s.calls, s.rsps)) = some ([], [.ok (.message [0x80, 0x02])]) := by decide
/-- VF1: header [00 05] in, three bytes are asked for. -/
theorem test_krecv_remainder : (nextOf (step (reading .krHdr (.klRx 0) 2 { Regs.reset with need := 2 } [0x00, 0x05, 0xAA] 2))).map
    (fun s => (s.calls, s.regs.hdr, s.regs.rem)) = some ([.read (.klRx 0) 3], (0x00, 0x05), 3) := by decide
/-- VF5: header [00 00]. -/
theorem test_krecv_illegal : (nextOf (step (reading .krHdr (.klRx 0) 2 { Regs.reset with need := 2 } [0x00, 0x00] 2))).map (·.rsps) =
    some [.error .formatError] := by decide
/-- The header rows: VF6, VF4. -/
theorem test_header_rows : [Instr.krxmsgHdrLegal 0x11 0xFF, .krxmsgHdrIllegal 0x80 1].map
    (fun i => (nextOf (exec i State.reset)).map (fun s => (s.regs.hdr, s.regs.rem, s.rsps))) =
    [some ((0x11, 0xFF), 253, []), some ((0x80, 0x01), 0, [.error .formatError])] := by decide

/-! ### The interface -/

/-- P5f. -/
theorem test_reserved : refusalOf (step (upWith (.command [0x09]))) = some (.reservedOp 0x9) := by decide
theorem test_rsp : (nextOf (exec (.rsp (.error .connectionError)) up)).map (·.rsps) = some [.error .connectionError] := by decide
/-- P5b: the connection closes under a pending read. -/
theorem test_closed_mid_call : (nextOf (step { reading (.ksEcho 0) (.klRx 2) 2 oneChunk [0x10] 1 with conn := .closed })).map
    (·.rsps) = some [.error .connectionError] := by decide
/-- What the host reads of the log, idle and busy (R30, R246). -/
theorem test_log_read : readLog { up with klog := [⟨0, [1], [2]⟩] } = some [⟨0, [1], [2]⟩] ∧
    readLog (reading .krHdr (.klRx 0) 2 Regs.reset [] 0) = none := by decide
/-- A reset empties the log the host reads, not what has been emitted (R33, R261). -/
theorem test_reset_log : (nextOf (step { upWith .reset with klog := [⟨0, [1], [2]⟩], logs := [⟨0, [1], [2]⟩] })).map
    (fun s => (s.klog, s.logs)) = some ([], [⟨0, [1], [2]⟩]) := by decide
/-- V15: recurring transient answers, taken one after the other. -/
theorem test_recurring : (nextOf (step { reading .crRd .canRx 4096 Regs.reset [] 0 with
    inbox := [], recurring := [.answer .transientIOError, .answer (.ok 0)] })).map (fun s => (s.calls, s.inbox, s.recurring.length)) =
    some ([.read .canRx 4096], [.answer (.ok 0)], 2) := by decide
/-- A bare table word of each width runs as the next step after reset. -/
theorem test_fetch_word : ((nextOf (step (State.reset.withFetchWord 4 0x4))).map (·.calls) = some [.read .canRx 4096]) ∧
    ((nextOf (step (State.reset.withFetchWord 32 0x00004005))).map (·.regs.w1) = some 0x00004005) ∧
    ((nextOf (step (State.reset.withFetchWord 16 0x0005))).map (·.regs.rem) = some 3) := by decide

/-! ### Witnesses: each statement's hypotheses are met together -/

theorem witness_EncodeWritesWordsAndSlot : ([] : Bytes).length ≤ 8 ∧ eight.length ≤ 8 := by decide
theorem witness_EncodeOfLongPayloadIsCallerError : 8 < nine.length := by decide
theorem witness_DecodeReadsEveryField : Spec.lenField slotLen8.toList = 8 ∧ Spec.lenField slot123.toList = 2 ∧
    Spec.isExt slot123.toList = false ∧ Spec.isExt slot800.toList = true := by decide
theorem witness_DecodeOfIllegalLengthIsFormatError : Spec.lenField slotLen9.toList = 9 ∧ Spec.lenField slotLen15.toList = 15 := by
  decide
theorem witness_DecodeOfEncodeGivesTheFrame : eight.length ≤ 8 := by decide
theorem witness_FormBoundaryAt7FFAnd800 : ([0xAA] : Bytes).length ≤ 8 := by decide
theorem witness_DecodeIgnoresUnreadPlaces : slot123 ≠ slot123junk ∧
    Spec.isExt slot123.toList = Spec.isExt slot123junk.toList ∧ Spec.addrField slot123.toList = Spec.addrField slot123junk.toList ∧
    Spec.readW2 slot123.toList % 4096 = Spec.readW2 slot123junk.toList % 4096 ∧
    Spec.readW2 slot123.toList / 65536 = Spec.readW2 slot123junk.toList / 65536 ∧
    (slot123.toList.drop 8).take (Spec.lenField slot123.toList) =
      (slot123junk.toList.drop 8).take (Spec.lenField slot123.toList) := by decide
theorem witness_ReencodeIsIdentityExactlyOnImages : Spec.lenField slot123.toList ≤ 8 ∧ Spec.readW1 slot123.toList % 2 = 1 ∧
    Spec.lenField slot123junk.toList ≤ 8 ∧ Spec.readW1 slot123junk.toList / 8 % 2 ^ 18 ≠ 0 := by decide
theorem witness_EncodeIsItsImageRows : (0x7FF : Address).toNat < 0x800 ∧ ¬ (0x800 : Address).toNat < 0x800 ∧ eight.length ≤ 8 := by
  decide
theorem witness_DecodeIsItsCaseRows : 8 < Spec.lenField slotLen9.toList ∧ Spec.lenField slotLen8.toList ≤ 8 := by decide
theorem witness_Word2IllegalCasesRaiseFormatError :
    (Instr.canslotW2Illegal9 0 0 1 = .canslotW2Illegal9 0 0 1 ∧ 9 = 9) ∧
    (Instr.canslotW2Illegal10to11 0 0 1 1 = .canslotW2Illegal10to11 0 0 1 1 ∧ 11 = 10 + (1 : BitVec 1).toNat) ∧
    (Instr.canslotW2Illegal12to15 0 0 1 3 = .canslotW2Illegal12to15 0 0 1 3 ∧ 15 = 12 + (3 : BitVec 2).toNat) := by decide
theorem witness_ImageRowsWriteTheWords : eight.length ≤ 8 := by decide

/-- A count is within an unbounded limit, and within a bounded one it equals. -/
theorem within_limits (n : Nat) : Spec.within none n ∧ Spec.within (some n) n :=
  ⟨fun _ h => (nomatch h), fun _ h => Nat.le_of_eq (Option.some.inj h)⟩

/-- `up` with BATCH false. -/
def upUnbatched : State := { up with cfg := { Params.initial with batch := false } }

theorem witness_SendManyValidatesBeforeTraffic : Spec.within up.cfg.txFramesMax 2 ∧
    (∃ f ∈ [f123, ⟨2, nine, 0⟩], 8 < f.data.length) ∧ ∀ f ∈ [f123, ⟨2, eight, 0⟩], f.data.length ≤ 8 :=
  ⟨(within_limits 2).1, by decide⟩
theorem witness_SendManyBatchedIssuesOneWrite : Spec.within up.cfg.txFramesMax 2 ∧
    (∀ f ∈ [f123, f800], f.data.length ≤ 8) ∧ up.cfg.batch = true ∧
    Spec.within up.cfg.txFramesMax ([] : List TxFrame).length ∧
    (let s := writing (.smWr 0) .canTx (slot123.toList ++ slot800.toList) Regs.reset (.ok 32)
     s.cfg.batch = true ∧ s.latch = none ∧ s.conn = .connected ∧ s.inbox = [.answer (.ok 32)] ∧
       s.phase = .writing (.smWr 0) .canTx (slot123.toList ++ slot800.toList)) :=
  ⟨(within_limits 2).1, by decide, by decide, (within_limits 0).1, by decide⟩
theorem witness_SendManyUnbatchedStartsWithSlotZero : Spec.within upUnbatched.cfg.txFramesMax 2 ∧
    (∀ f ∈ [f123, f800], f.data.length ≤ 8) ∧ upUnbatched.cfg.batch = false ∧
    Spec.within upUnbatched.cfg.txFramesMax ([] : List TxFrame).length := ⟨(within_limits 2).1, by decide, by decide, (within_limits 0).1⟩

/-- VM2's run: the command and two answers. -/
def unbatchedRun : State :=
  { upUnbatched with inbox := [.command (0x03 :: encodeTxFrames [f123, f800]), .answer (.ok 16), .answer (.ok 16)] }
theorem witness_SendManyUnbatchedWritesEverySlotInOrder : Spec.within unbatchedRun.cfg.txFramesMax [f123, f800].length ∧
    (∀ f ∈ [f123, f800], f.data.length ≤ 8) ∧ unbatchedRun.cfg.batch = false ∧ unbatchedRun.phase = .idle ∧
    unbatchedRun.latch = none ∧ unbatchedRun.conn = .connected ∧ [16, 16].length = [f123, f800].length ∧
    decode .cmd (0x03 :: encodeTxFrames [f123, f800]) = .ok (.sendmany [f123, f800], []) ∧
    unbatchedRun.inbox = .command (0x03 :: encodeTxFrames [f123, f800]) ::
      ([16, 16].map (fun n => Event.answer (.ok n)) ++ []) := ⟨(within_limits 2).1, by decide⟩

/-- P3's read, under either policy. -/
def canRead (policy : RxErrPolicy) : State :=
  { reading .crRd .canRx 4096 { Regs.reset with att := 1 } (slot123.toList ++ slotLen9.toList ++ [1, 2]) 34 with
    cfg := { Params.initial with rxErrPolicy := policy } }
theorem witness_CanrecvDropsFailedSlots : (canRead .drop).latch = none ∧ (canRead .drop).conn = .connected ∧
    (canRead .drop).phase = .reading .crRd .canRx 4096 ∧ (canRead .drop).inbox = [.answer (.ok 34)] ∧
    (((canRead .drop).inbound.waiting .canRx).take 34).length = 34 ∧ (canRead .drop).cfg.rxErrPolicy = .drop := by decide
theorem witness_CanrecvAbortsOnFailedSlot : (canRead .abort).latch = none ∧ (canRead .abort).conn = .connected ∧
    (canRead .abort).phase = .reading .crRd .canRx 4096 ∧ (canRead .abort).inbox = [.answer (.ok 34)] ∧
    (((canRead .abort).inbound.waiting .canRx).take 34).length = 34 ∧ (canRead .abort).cfg.rxErrPolicy = .abort ∧
    none ∈ Spec.received (((canRead .abort).inbound.waiting .canRx).take 34) ∧
    none ∉ Spec.received (((canRead .abort).inbound.waiting .canRx).take 16) := by decide
/-- A read that returns what one SENDMANY of two frames wrote. -/
def loopedRead : State := reading .crRd .canRx 4096 { Regs.reset with att := 1 } (slot123.toList ++ slot800.toList) 32
theorem witness_MultiplexingKeepsOrder : [f123, f800].length ≤ 256 ∧ (∀ f ∈ [f123, f800], f.data.length ≤ 8) ∧
    loopedRead.latch = none ∧ loopedRead.conn = .connected ∧ loopedRead.phase = .reading .crRd .canRx 4096 ∧
    loopedRead.inbox = [.answer (.ok 32)] ∧
    (loopedRead.inbound.waiting .canRx).take 32 = [f123, f800].flatMap (fun f => Spec.encoded f.address f.data f.bus) := by decide

theorem witness_RetryUnitsIssueTheirCall : 1 ≤ 4096 := by decide
/-- VR1's answers, under a limit of 3 or none. -/
def retryRun (limit : Option Nat) : State := { up with
  cfg := { Params.initial with retryLimit := limit }
  inbox := [.answer .transientIOError, .answer .transientIOError, .answer (.ok 32)] }
theorem witness_TransientAnswersCostOneCallEach :
    (∀ m, (retryRun none).cfg.retryLimit = some m → 2 < m) ∧ (∀ m, (retryRun (some 3)).cfg.retryLimit = some m → 2 < m) ∧
    (∀ l ∈ [none, some 3], (retryRun l).latch = none ∧ (retryRun l).conn = .connected ∧
      (retryRun l).inbox = List.replicate 2 (.answer .transientIOError) ++ .answer (.ok 32) :: [] ∧
      1 ≤ 4096 ∧ (((retryRun l).inbound.waiting .canRx).take 32).length ≤ 4096) ∧
    (let s := { up with recurring := [.answer .transientIOError] }
     s.cfg.retryLimit = none ∧ s.latch = none ∧ s.conn = .connected ∧ s.inbox = [] ∧ s.recurring = [.answer .transientIOError]) :=
  ⟨fun _ h => (nomatch h), fun _ h => Nat.lt_of_lt_of_eq (by decide) (Option.some.inj h), by decide, by decide⟩
/-- VR5's answers. -/
def boundedRun : State := { up with
  cfg := { Params.initial with retryLimit := some 3 }
  inbox := List.replicate 3 (.answer .transientIOError) }
theorem witness_BoundedRetryGivesUp : boundedRun.cfg.retryLimit = some (2 + 1) ∧ boundedRun.latch = none ∧
    boundedRun.conn = .connected ∧ boundedRun.inbox = List.replicate (2 + 1) (.answer .transientIOError) ++ [] ∧ 1 ≤ 4096 ∧
    (∀ att ∈ [2, 3], let s := { writing (.smWr 1) .canTx slot800.toList { Regs.reset with att := att } .transientIOError with
        cfg := { Params.initial with retryLimit := some 3 } }
      s.cfg.retryLimit = some 3 ∧ s.latch = none ∧ s.conn = .connected ∧ s.inbox = [.answer .transientIOError] ∧
        s.phase = .writing (.smWr 1) .canTx slot800.toList ∧ (att = 3 → 3 ≤ s.regs.att) ∧ (att = 2 → s.regs.att < 3)) ∧
    (∀ att ∈ [2, 3], let s := { reading .crRd .canRx 4096 { Regs.reset with att := att } [] 0 with
        cfg := { Params.initial with retryLimit := some 3 }, inbox := [.answer .transientIOError] }
      s.cfg.retryLimit = some 3 ∧ s.latch = none ∧ s.conn = .connected ∧ s.inbox = [.answer .transientIOError] ∧
        s.phase = .reading .crRd .canRx 4096 ∧ (att = 3 → 3 ≤ s.regs.att) ∧ (att = 2 → s.regs.att < 3)) := by decide
theorem witness_CanErrorsEndTheOperation : ∀ a ∈ [Answer.connectionError, .otherTransportError],
    (writing (.smWr 1) .canTx slot800.toList Regs.reset a).latch = none ∧
    (writing (.smWr 1) .canTx slot800.toList Regs.reset a).conn = .connected ∧
    (writing (.smWr 1) .canTx slot800.toList Regs.reset a).inbox = [.answer a] ∧
    (writing (.smWr 1) .canTx slot800.toList Regs.reset a).phase = .writing (.smWr 1) .canTx slot800.toList ∧
    (reading .crRd .canRx 4096 Regs.reset [] 0).phase = .reading .crRd .canRx 4096 := by decide

theorem witness_KsendBeginsWithTheDrain : Spec.within up.cfg.ksendMax 2 := (within_limits 2).1
/-- A drain read about to be answered, with or without stale bytes, and a KSEND with something or nothing to send. -/
def drain (msg stale : Bytes) : State :=
  reading .ksDrain (.klRx 2) 64 { Regs.reset with kmsg := msg, csen := false, busr := 2 } stale 2
theorem witness_DrainEndsOnAnEmptyRead :
    (∀ s ∈ [drain [] [0x55, 0x66], drain [0x02] [], drain [] []], s.latch = none ∧ s.conn = .connected ∧
      s.phase = .reading .ksDrain (.klRx s.regs.busr) s.cfg.klDrainMax ∧ s.inbox = [.answer (.ok 2)] ∧
      ((s.inbound.waiting (.klRx s.regs.busr)).take 2).length ≤ s.cfg.klDrainMax) ∧
    ((drain [] [0x55, 0x66]).inbound.waiting (.klRx 2)).take 2 ≠ [] ∧
    ((drain [0x02] []).inbound.waiting (.klRx 2)).take 2 = [] ∧ Spec.kbuf [0x02] false ≠ [] ∧ Spec.kbuf [] false = [] := by decide
theorem witness_ChunkGoesOutBehindItsSelector : ([0xAA] : Bytes).length = 1 ∧ fifteen.length = 15 := by decide
/-- VK1's run with a true echo. -/
def ksendRun : State := { up with inbox := [.command [0x05, 2, 1, 1, 0x02, 1, 0x10, 0], .answer (.ok 0), .answer (.ok 4),
  .arrive (.klRx 2) [0x02, 0x10, 0x12], .answer (.ok 3)] }
/-- The events of a KSEND on bus 2 whose chunks are all echoed as sent. -/
def echoed (m : Bytes) (cs : Bool) (w : Nat) : List Event :=
  .command (0x05 :: 2 :: encodeFlag cs :: encodeSeq m) :: .answer (.ok 0) ::
    (Spec.chunks (Spec.kbuf m cs)).flatMap (fun c => [.answer (.ok w), .arrive (.klRx 2) c, .answer (.ok c.length)])
/-- VK1's run written out, a message of two chunks (VK6) and one of none. -/
theorem witness_KsendWithTrueEchoesSendsKbuf : Spec.within ksendRun.cfg.ksendMax ([0x02, 0x10] : Bytes).length ∧
    Spec.within ksendRun.cfg.ksendMax fifteen.length ∧ Spec.within ksendRun.cfg.ksendMax ([] : Bytes).length ∧
    ksendRun.phase = .idle ∧ ksendRun.latch = none ∧ ksendRun.conn = .connected ∧ ksendRun.inbound.wf = true ∧
    ksendRun.inbound.waiting (.klRx 2) = [] ∧ ksendRun.inbox = echoed [0x02, 0x10] true 4 ++ [] ∧
    (∀ p ∈ [([0x02, 0x10], true), (fifteen, true), (([] : Bytes), false)],
      decode .cmd (0x05 :: 2 :: encodeFlag p.2 :: encodeSeq p.1) = .ok (.ksend p.1 2 p.2, [])) ∧
    Spec.chunks (Spec.kbuf fifteen true) = [fifteen, [0x78]] ∧ Spec.chunks (Spec.kbuf [] false) = [] :=
  ⟨(within_limits 2).1, (within_limits 15).1, (within_limits 0).1, by decide⟩

theorem witness_KechoAsksForTheChunkLength : ([0xAA] : Bytes).length = 1 ∧ fifteen.length = 15 := by decide
/-- A chunk write about to be answered. -/
def chunkWrite (r : Regs) : State := writing (.ksWr 0) .klTx (r.busr :: r.chunk) r (.ok 4)
theorem witness_ChunkWriteIsFollowedByItsEcho : ∀ r ∈ [oneChunk, twoChunks], (chunkWrite r).latch = none ∧
    (chunkWrite r).conn = .connected ∧ (chunkWrite r).phase = .writing (.ksWr 0) .klTx (r.busr :: r.chunk) ∧
    (chunkWrite r).inbox = [.answer (.ok 4)] ∧ 1 ≤ (chunkWrite r).regs.chunk.length ∧
    (chunkWrite r).regs.chunk.length ≤ 15 := by decide
theorem witness_RdexactAsksForAllItNeeds : ∀ n ∈ [(1 : Byte), 253], n.toNat ≤ 253 ∧ n ≠ 0 := by decide
theorem witness_RdexactAsksAgainForTheRest : ∀ p ∈ [ReadPoint.ksEcho 0, .krHdr, .krBody], ∀ q ∈ [([] : Bytes), [0x02, 0x10]],
    let s := reading p (.klRx 2) 3 oneChunk q 2
    s.latch = none ∧ s.conn = .connected ∧ s.phase = .reading p (.klRx 2) s.regs.need.toNat ∧ s.inbox = [.answer (.ok 2)] ∧
      ((s.inbound.waiting (.klRx 2)).take 2).length < s.regs.need.toNat := by decide
theorem witness_TrueEchoGoesOn : ∀ r ∈ [oneChunk, twoChunks],
    let s := reading (.ksEcho 0) (.klRx 2) r.need.toNat r r.chunk r.chunk.length
    s.latch = none ∧ s.conn = .connected ∧ s.phase = .reading (.ksEcho 0) (.klRx 2) s.regs.need.toNat ∧
      s.inbox = [.answer (.ok r.chunk.length)] ∧
      ((s.inbound.waiting (.klRx 2)).take r.chunk.length).length = s.regs.need.toNat ∧
      s.regs.acc ++ (s.inbound.waiting (.klRx 2)).take r.chunk.length = s.regs.chunk ∧
      (r = oneChunk → s.regs.nch ≤ 0 + 1) ∧ (r = twoChunks → 0 + 1 < s.regs.nch) := by decide
/-- A wrong echo of 3 bytes: last chunk fatal under SOURCE, last chunk logged, intermediate chunk logged. -/
def wrongEcho (r : Regs) (policy : EchoPolicy) : State :=
  { reading (.ksEcho 0) (.klRx 2) 3 { r with chunk := [0x02, 0x10, 0x12], need := 3 } [0x02, 0x10, 0x13] 3 with
    cfg := { Params.initial with echoPolicy := policy } }
theorem witness_FalseEchoFollowsThePolicy :
    (∀ s ∈ [wrongEcho oneChunk .source, wrongEcho oneChunk .alwaysLogged, wrongEcho twoChunks .source],
      s.latch = none ∧ s.conn = .connected ∧ s.phase = .reading (.ksEcho 0) (.klRx 2) s.regs.need.toNat ∧
      s.inbox = [.answer (.ok 3)] ∧ ((s.inbound.waiting (.klRx 2)).take 3).length = s.regs.need.toNat ∧
      s.regs.acc ++ (s.inbound.waiting (.klRx 2)).take 3 ≠ s.regs.chunk) ∧
    (wrongEcho oneChunk .source).regs.kfinal = true ∧ (wrongEcho oneChunk .alwaysLogged).regs.nch ≤ 0 + 1 ∧
    (wrongEcho twoChunks .source).regs.kfinal = false ∧ 0 + 1 < (wrongEcho twoChunks .source).regs.nch := by decide
theorem witness_KlineErrorsAreNotRetried :
    (∀ a ∈ [Answer.transientIOError, .connectionError, .otherTransportError],
      let s := writing (.ksWr 0) .klTx [0x02, 0x02, 0x10, 0x12] oneChunk a
      s.latch = none ∧ s.conn = .connected ∧ s.inbox = [.answer a] ∧
        s.phase = .writing (.ksWr 0) .klTx [0x02, 0x02, 0x10, 0x12]) ∧
    (∀ p ∈ [ReadPoint.ksDrain, .ksEcho 0, .krHdr, .krBody],
      let s := { reading p (.klRx 2) 3 oneChunk [] 0 with inbox := [.answer .transientIOError] }
      s.latch = none ∧ s.conn = .connected ∧ s.inbox = [.answer .transientIOError] ∧ s.phase = .reading p (.klRx 2) 3 ∧
        p ≠ .crRd) := by decide

theorem witness_HeaderDecidesTheRemainder : ∀ l ∈ [(0 : Byte), 1, 2, 3, 255],
    let s := reading .krHdr (.klRx 0) 2 { Regs.reset with need := 2 } [0x80, l] 2
    s.latch = none ∧ s.conn = .connected ∧ s.phase = .reading .krHdr (.klRx 0) s.regs.need.toNat ∧
      s.inbox = [.answer (.ok 2)] ∧ ((s.inbound.waiting (.klRx 0)).take 2).length = s.regs.need.toNat ∧
      s.regs.acc ++ (s.inbound.waiting (.klRx 0)).take 2 = [0x80, l] := by decide
theorem witness_HeaderRowsGiveRemainderOrFormatError : 2 ≤ (2 : Byte).toNat ∧ 2 ≤ (255 : Byte).toNat := by decide
/-- VF2 with a byte more: [00], [05], then [AA], nothing, [BB CC]; and VF3: the header alone. -/
def krecvRun (waits : Bytes) (ns : List Nat) : State := { up with
  inbound := [(.klRx 0, waits)]
  inbox := .command [0x06, 0] :: ns.map (fun n => Event.answer (.ok n)) }
theorem witness_KrecvDeliversTheWholeMessage :
    (∀ s ∈ [krecvRun [0x00, 0x05, 0xAA, 0xBB, 0xCC, 0xDD] [1, 1, 1, 0, 2], krecvRun [0x80, 0x02, 0x99] [2]],
      s.latch = none ∧ s.conn = .connected ∧ s.phase = .idle ∧ s.inbound.wf = true) ∧
    decode .cmd [0x06, 0] = .ok (.krecv 0, []) ∧
    (krecvRun [0x00, 0x05, 0xAA, 0xBB, 0xCC, 0xDD] [1, 1, 1, 0, 2]).inbound.waiting (.klRx 0) =
      0x00 :: 0x05 :: ([0xAA, 0xBB, 0xCC] ++ [0xDD]) ∧ (0x05 : Byte).toNat = 2 + ([0xAA, 0xBB, 0xCC] : Bytes).length ∧
    [1, 1].sum = 2 ∧ [1, 1].getLast? ≠ some 0 ∧ [1, 0, 2].sum = ([0xAA, 0xBB, 0xCC] : Bytes).length ∧
    [1, 0, 2].getLast? ≠ some 0 ∧
    (krecvRun [0x00, 0x05, 0xAA, 0xBB, 0xCC, 0xDD] [1, 1, 1, 0, 2]).inbox =
      .command [0x06, 0] :: (([1, 1] ++ [1, 0, 2]).map (fun n => Event.answer (.ok n)) ++ []) ∧
    (krecvRun [0x80, 0x02, 0x99] [2]).inbound.waiting (.klRx 0) = 0x80 :: 0x02 :: ([] ++ [0x99]) ∧
    (0x02 : Byte).toNat = 2 + ([] : Bytes).length ∧ ([] : List Nat).sum = 0 ∧ ([] : List Nat).getLast? ≠ some 0 ∧
    (krecvRun [0x80, 0x02, 0x99] [2]).inbox = .command [0x06, 0] :: (([2] ++ []).map (fun n => Event.answer (.ok n)) ++ []) := by
  decide

theorem witness_NoConnectionMeansConnectionError :
    (∀ c ∈ [Conn.notEstablished, .closed], ∀ box ∈ [[Event.answer (.ok 1)], []],
      let s := { reading .krHdr (.klRx 0) 2 Regs.reset [] 0 with conn := c, inbox := box }
      s.latch = none ∧ s.conn ≠ .connected ∧ s.phase ≠ .idle ∧ s.upcoming = box) := by decide
theorem witness_CodecNeverSeesTheConnection : (∃ a d b, Instr.encode 1 [0x00] 0 = .encode a d b) ∧
    ∃ sl, Instr.decode slot123 = .decode sl := ⟨⟨_, _, _, rfl⟩, ⟨_, rfl⟩⟩
theorem witness_RefusedRequestsTakeNoStep :
    (
      let s := { reading (.ksEcho 0) (.klRx 2) 3 oneChunk [] 0 with inbox := [.command [0x04]] }
      s.latch = none ∧ s.phase ≠ .idle ∧ s.inbox = [.command [0x04]]) ∧
    (2 ^ 29 ≤ 0x20000000 ∧ 0x20000000 < 2 ^ 32 ∧ (upWith (.command (0x01 :: (Spec.leBytes 4 0x20000000 ++ [])))).latch = none ∧
      (upWith (.command (0x01 :: (Spec.leBytes 4 0x20000000 ++ [])))).phase = .idle) ∧
    (∀ fs ∈ [[], [f123, f800]],
      let bytes := 0x03 :: (fs.flatMap (fun f => 0x01 :: encodeTxFrame f) ++ 0x01 :: (Spec.leBytes 4 0xFFFFFFFF ++ []))
      2 ^ 29 ≤ 0xFFFFFFFF ∧ 0xFFFFFFFF < 2 ^ 32 ∧ (upWith (.command bytes)).latch = none ∧
        (upWith (.command bytes)).phase = .idle ∧ (upWith (.command bytes)).inbox = .command bytes :: []) ∧
    (
      let s := reading .krHdr (.klRx 0) 2 Regs.reset [1, 2, 3] 3
      s.latch = none ∧ s.conn = .connected ∧ s.phase = .reading .krHdr (.klRx 0) 2 ∧ s.inbox = [.answer (.ok 3)] ∧
        2 < ((s.inbound.waiting (.klRx 0)).take 3).length) ∧
    (
      let s := { State.reset with cfg := { Params.initial with txFramesMax := some 0, ksendMax := some 2 } }
      s.cfg.txFramesMax = some 0 ∧ 0 < [f123].length ∧ s.cfg.ksendMax = some 2 ∧
        2 < ([0x01, 0x02, 0x03] : Bytes).length) := by decide
theorem witness_ReservedOpsAreRefused : (upWith (.command ((0x9 : BitVec 4).setWidth 8 :: [0xFF]))).latch = none ∧
    (upWith (.command ((0x9 : BitVec 4).setWidth 8 :: [0xFF]))).phase = .idle ∧
    (upWith (.command ((0x9 : BitVec 4).setWidth 8 :: [0xFF]))).inbox = [.command ((0x9 : BitVec 4).setWidth 8 :: [0xFF])] := by decide
theorem witness_ReadsConsume :
    let s := reading .krHdr (.klRx 0) 2 { Regs.reset with need := 2 } [0x80, 0x02, 0x99] 2
    s.latch = none ∧ s.conn = .connected ∧ s.inbound.wf = true ∧ s.phase = .reading .krHdr (.klRx 0) 2 ∧
      s.inbox = [.answer (.ok 2)] ∧ ((s.inbound.waiting (.klRx 0)).take 2).length ≤ 2 := by decide
theorem witness_StepRunsTheDecodedInstruction :
    ((upWith (.command [0x04])).latch = none ∧ (upWith (.command [0x04])).phase = .idle ∧
      (upWith (.command [0x04])).upcoming = [.command [0x04]] ∧ decode .cmd [0x04] = .ok (.canrecv, [])) ∧
    (latched .krxHdr [0x00, 0x05]).latch = some (.krxHdr, [0x00, 0x05]) ∧
      decode .krxHdr [0x00, 0x05] = .ok (.krxmsgHdrLegal 0 5, []) := by decide
theorem witness_DecodeOfEncodeIsTheInstruction : (Instr.krecv 2).wellFormed = true ∧
    encode (.krecv 2) = some (.cmd, [0x06, 2]) ∧ (Instr.canslotW2Enc 255 8).wellFormed = true ∧
    encode (.canslotW2Enc 255 8) = some (.word2Tx, [0xF8, 0x0F, 0x00, 0x00]) := by decide
theorem witness_HostCannotIssueMicroOperations : decode .cmd [0x06, 2] = .ok (.krecv 2, []) := by decide
theorem witness_ResetAbandonsTheOperation :
    let s := { reading .krHdr (.klRx 0) 2 Regs.reset [] 0 with inbox := [.reset, .answer (.ok 2)] }
    s.latch = none ∧ s.inbox = .reset :: [.answer (.ok 2)] ∧ (upWith (.answer (.ok 2))).latch = none ∧
      (upWith (.answer (.ok 2))).phase = .idle ∧ (upWith (.answer (.ok 2))).inbox = .answer (.ok 2) :: [] := by decide
theorem witness_OnlyTheEnvironmentMovesTheConnection :
    (nextOf (step { State.reset with inbox := [.connect] })).map (·.conn) = some .connected ∧
    (nextOf (step (upWith .close))).map (·.conn) = some .closed ∧
    (nextOf (step (upWith .reset))).map (·.conn) = some .notEstablished := by decide

/-- P4 script A: byte 3 of the echo of chunk 0 is 14, sent 04. -/
def echoA : State := reading (.ksEcho 0) (.klRx 2) 15 { twoChunks with kmsg := fifteen, csum := 0x78 }
  [1, 2, 3, 0x14, 5, 6, 7, 8, 9, 10, 11, 12, 13, 14, 15] 15
/-- It meets the invariant. -/
theorem inv_echoA : Inv echoA where
  cfg_legal := by decide
  inbound_wf := by decide
  latch_empty := rfl
  calls_legal := by intro c h; cases h
  rsps_legal := by intro r h; cases h
  phase_holds := ⟨rfl, ⟨by decide, by decide, by decide, rfl, by decide⟩, by decide, by decide, rfl, by decide⟩
  log_kept := by decide
/-- Its step goes on: it appends to the log and issues the next call. -/
theorem witness_StepKeepsTheInvariant : Inv echoA ∧ (nextOf (step echoA)).map (fun t => (t.klog.length, t.calls)) =
    some (1, [.write .klTx [2, 0x78]]) := ⟨inv_echoA, by decide⟩
theorem witness_LogOnlyGrows : Inv echoA ∧ (nextOf (step echoA)).map (fun t => (t.klog, t.logs.length)) =
    some ([⟨0, fifteen, [1, 2, 3, 0x14, 5, 6, 7, 8, 9, 10, 11, 12, 13, 14, 15]⟩], 1) := ⟨inv_echoA, by decide⟩
theorem witness_OneResponseAndOneCallAtATime : (nextOf (step echoA)).map (fun t => (t.rsps, t.phase)) =
    some ([], .writing (.ksWr 1) .klTx [2, 0x78]) := by decide

end Sys2Proof.Tests
end

section
/-! SUPPORT. What the host's command port can stand for (30_encoding.md R89, R102; 60_exceptions.md R246). -/

namespace Sys2Proof

/-- Whatever instruction a decoder's piece reads is one the host can issue. -/
def ReadsHostRows (r : Except Reject (Instr × Bytes)) : Prop :=
  ∀ (i : Instr) (more : Bytes), r = .ok (i, more) → i.hostIssuable = true

namespace ReadsHostRows

theorem of_ok {i : Instr} {bs : Bytes} (h : i.hostIssuable = true) : ReadsHostRows (.ok (i, bs)) := by
  intro _ _ he
  cases he
  exact h

/-- An operand read before the row is known cannot change which rows are read. -/
theorem of_bind {α : Type} {x : Except Reject α} {f : α → Except Reject (Instr × Bytes)}
    (hf : ∀ a, ReadsHostRows (f a)) : ReadsHostRows (x >>= f) := by
  cases x with
  | error why => intro _ _ he; cases he
  | ok a => exact hf a

end ReadsHostRows

/-- The operation map holds no row but those with an `op` value. -/
theorem decodeCmd_readsHostRows (bs : Bytes) : ReadsHostRows (decodeCmd bs) := by
  refine .of_bind fun (op, rest) => ?_
  dsimp only
  split
  -- ENCODE, DECODE, SENDMANY, KRECV and then KSEND read operands; every other arm names its row at once.
  case h_2 | h_3 | h_4 | h_7 => exact .of_bind fun _ => .of_ok rfl
  case h_6 => exact .of_bind fun _ => .of_bind fun _ => .of_bind fun _ => .of_ok rfl
  all_goals exact .of_ok rfl

end Sys2Proof
end

section
/-! SUPPORT. Sizes: what is cut out of a buffer, and what a slot decodes to (00_scope.md R14; 41_bus_multiplexer.md R146;
43_kline_checksum_codec.md R178). -/

namespace Sys2Proof.Machine

/-- Slot `j` of a buffer of `n` whole slots has all of its 16 bytes. -/
theorem sliceAt_length {buf : Bytes} {j n : Nat} (hn : buf.length = 16 * n) (hj : j < n) :
    (sliceAt buf j).length = 16 := by
  simp only [sliceAt, List.length_take, List.length_drop, hn, Config.slotBytes]
  omega

/-- Every chunk of a buffer has 1 to 15 bytes (30_encoding.md R86). -/
theorem chunkAt_length {buf : Bytes} {k : Nat} (hk : k < chunkCount buf.length) :
    1 ≤ (chunkAt buf k).length ∧ (chunkAt buf k).length ≤ 15 := by
  simp only [chunkAt, List.length_take, List.length_drop, Config.chunkMax]
  unfold chunkCount at hk
  omega

/-- A decoded frame has at most 8 bytes: LENGTH was tested before the payload was cut (R127, R128). -/
theorem decodeSlot_wellFormed {sl : Slot} {f : CanFrame} (h : decodeSlot sl = some f) : f.wellFormed = true := by
  cases hl : lengthIllegal (wordLength (slotWord2 sl)) with
  | true => simp [decodeSlot, hl] at h
  | false =>
    have hn : (wordLength (slotWord2 sl)).toNat ≤ 8 := by simpa [lengthIllegal] using hl
    simp only [decodeSlot, hl, Bool.false_eq_true, if_false, Option.some.injEq] at h
    subst h
    simp only [CanFrame.wellFormed, slotPayload, List.length_take, Config.dataMax, decide_eq_true_eq]
    omega

/-- The slots that decode and those that fail are all the slots (R148). -/
theorem decoded_add_failed (results : List (Option CanFrame)) :
    (results.filterMap id).length + (results.filter Option.isNone).length = results.length := by
  rw [List.length_filterMap_eq_countP, ← List.countP_eq_length_filter,
    List.length_eq_countP_add_countP Option.isSome (l := results)]
  simp only [id, Bool.not_eq_true, Option.isSome_eq_false_iff, Bool.decide_eq_true]

theorem frames_wellFormed_iff {fs : List CanFrame} {dropped : Nat} :
    (Response.ok (.frames fs dropped)).wellFormed = true ↔
      (∀ f ∈ fs, f.wellFormed = true) ∧ fs.length + dropped ≤ 256 := by
  simp [Response.wellFormed, Result.wellFormed]

/-- CANRECV answers with a well-formed response under either policy (R146, R148). -/
theorem receiveResult_wellFormed (policy : RxErrPolicy) {results : List (Option CanFrame)} (hn : results.length ≤ 256)
    (hf : ∀ f, some f ∈ results → f.wellFormed = true) : (receiveResult policy results).wellFormed = true := by
  have count := decoded_add_failed results
  have frames : ∀ f ∈ results.filterMap id, f.wellFormed = true := by simpa using hf
  cases policy with
  | drop => exact frames_wellFormed_iff.2 ⟨frames, by omega⟩
  | abort =>
    simp only [receiveResult]
    split
    · exact frames_wellFormed_iff.2 ⟨frames, by omega⟩
    · rfl

/-- KRECV's message of header and body has the length its header names, so 2 to 255 bytes (45_serial_framer.md R215). -/
theorem message_wellFormed {h n : Byte} {body : Bytes} (hn : 2 ≤ n.toNat) (hb : body.length = n.toNat - 2) :
    (Response.ok (.message ([h, n] ++ body))).wellFormed = true := by
  simp [Response.wellFormed, Result.wellFormed, hb]
  omega

end Sys2Proof.Machine
end

section
/-! SUPPORT. The channels and the sequencer: what an operation has to keep by itself. The rest of the invariant is the frame
that every operation shares (SameEnv). -/

namespace Sys2Proof.Machine

/-- The parameters are legal, and so is all that stands in the channels TP and RSP. -/
structure ChannelsLegal (s : State) : Prop where
  cfg   : s.cfg.legal = true
  calls : ∀ c ∈ s.calls, callLegal s.cfg c = true
  rsps  : ∀ r ∈ s.rsps, r.wellFormed = true

/-- A state at which a step may end: legal channels, and registers that agree with the suspension point. -/
structure Settled (s : State) : Prop where
  channels : ChannelsLegal s
  phase    : phaseHolds s

theorem drainMax_pos {p : Params} (h : p.legal = true) : 1 ≤ p.klDrainMax := by
  simp only [Params.legal, Bool.and_eq_true, decide_eq_true_eq] at h
  exact h.1

section
variable {s : State}

/-! ### One rule per shared update -/

theorem ChannelsLegal.mapRegs (h : ChannelsLegal s) (f : Regs → Regs) : ChannelsLegal (s.mapRegs f) :=
  ⟨h.cfg, h.calls, h.rsps⟩

theorem ChannelsLegal.log (h : ChannelsLegal s) (e : LogEntry) : ChannelsLegal (logEvent e s) :=
  ⟨h.cfg, h.calls, h.rsps⟩

theorem Settled.respond (h : ChannelsLegal s) {r : Response} (hr : r.wellFormed = true) : Settled (respond r s) where
  channels := ⟨h.cfg, h.calls, by
    simp only [respond_rsps, List.forall_mem_append, List.forall_mem_singleton]
    exact ⟨h.rsps, hr⟩⟩
  phase := trivial

theorem Settled.finish (h : ChannelsLegal s) {v : Result} (hv : v.wellFormed = true) : Settled (finish v s) :=
  Settled.respond h hv

theorem Settled.raise (h : ChannelsLegal s) (k : ErrorKind) : Settled (raiseError k s) := Settled.respond h rfl

theorem Settled.write (h : ChannelsLegal s) {p : WritePoint} {ep : WriteEndpoint} {bytes : Bytes}
    (hc : callLegal s.cfg (.write ep bytes) = true) (hp : phaseHolds (issueWrite p ep bytes s)) :
    Settled (issueWrite p ep bytes s) where
  channels := ⟨h.cfg, by
    simp only [issueWrite_calls, issueWrite_cfg, List.forall_mem_append, List.forall_mem_singleton]
    exact ⟨h.calls, hc⟩, h.rsps⟩
  phase := hp

theorem Settled.read (h : ChannelsLegal s) {p : ReadPoint} {ep : ReadEndpoint} {max : Nat}
    (hc : callLegal s.cfg (.read ep max) = true) (hp : phaseHolds (issueRead p ep max s)) :
    Settled (issueRead p ep max s) where
  channels := ⟨h.cfg, by
    simp only [issueRead_calls, issueRead_cfg, List.forall_mem_append, List.forall_mem_singleton]
    exact ⟨h.calls, hc⟩, h.rsps⟩
  phase := hp

/-! ### The legal calls -/

theorem callLegal_slots {p : Params} {bytes : Bytes} (h : bytes.length % 16 = 0) :
    callLegal p (.write .canTx bytes) = true := by simpa [callLegal] using h

theorem callLegal_chunk {p : Params} {sel : Byte} {chunk : Bytes} (h : 1 ≤ chunk.length ∧ chunk.length ≤ 15) :
    callLegal p (.write .klTx (sel :: chunk)) = true := by
  simp only [callLegal, List.length_cons, Bool.and_eq_true, decide_eq_true_eq]
  omega

theorem callLegal_exact {p : Params} {bus : Byte} {n : Nat} (h : 1 ≤ n ∧ n ≤ 253) :
    callLegal p (.read (.klRx bus) n) = true := by simp [callLegal, h]

theorem callLegal_drain {p : Params} {bus : Byte} (h : p.legal = true) :
    callLegal p (.read (.klRx bus) p.klDrainMax) = true := by simpa [callLegal] using drainMax_pos h

/-! ### RDEXACT -/

/-- The loop of RDEXACT: `total` bytes are wanted in all, 253 at most. While some are needed the state at the suspension
point has to agree with it; with none needed the caller's way on has to settle. -/
theorem rdexactLoop_settled (h : ChannelsLegal s) {point : ReadPoint} {bus : Byte} {done : State → State} {total : Nat}
    (ht : s.regs.acc.length + s.regs.need.toNat = total) (hmax : total ≤ 253)
    (hwait : rdexactHolds s.regs total s.regs.need.toNat →
      phaseHolds (issueRead point (.klRx bus) s.regs.need.toNat s))
    (hdone : s.regs.acc.length = total → Settled (done s)) :
    Settled (rdexactLoop point (.klRx bus) done s) := by
  rcases rdexactLoop_cases point (.klRx bus) done s with ⟨hn, he⟩ | ⟨hn, he⟩ <;> rw [he]
  · exact hdone (by simpa [hn] using ht)
  · have hpos : 1 ≤ s.regs.need.toNat := by
      have : s.regs.need.toNat ≠ 0 := fun h0 => hn (BitVec.eq_of_toNat_eq h0)
      omega
    exact .read h (callLegal_exact ⟨hpos, by omega⟩) (hwait ⟨ht, rfl, hpos⟩)

/-- The bytes of an answer within the request move from the needed to the collected. -/
theorem rdexact_progress {need : Byte} {acc bytes : Bytes} {total : Nat} (ht : acc.length + need.toNat = total)
    (hb : bytes.length ≤ need.toNat) :
    (acc ++ bytes).length + (need - BitVec.ofNat 8 bytes.length).toNat = total := by
  have := need.isLt
  rw [List.length_append, BitVec.toNat_sub, BitVec.toNat_ofNat]
  omega

/-! ### KSEND -/

/-- The chunk of KSEND's loop has 1 to 15 bytes. -/
theorem ksendHolds_chunk_length {r : Regs} {k : Nat} (hs : ksendHolds r k) :
    1 ≤ r.chunk.length ∧ r.chunk.length ≤ 15 := by
  obtain ⟨-, hnch, hk, -, hchunk⟩ := hs
  rw [hchunk]
  exact chunkAt_length (hnch ▸ hk)

/-- A chunk goes out: KBUF and NCH stand, and the chunk is cut from KBUF (43_kline_checksum_codec.md R177 to R179). -/
theorem writeChunk_settled (h : ChannelsLegal s) {k : Nat} (hbuf : s.regs.kbuf = kbufOf s.regs.kmsg s.regs.csen)
    (hnch : s.regs.nch = chunkCount s.regs.kbuf.length) (hk : k < s.regs.nch) (bus : Byte) :
    Settled (writeChunk k bus (chunkAt s.regs.kbuf k) s) :=
  .write (h.mapRegs _) (callLegal_chunk (chunkAt_length (hnch ▸ hk))) ⟨rfl, ⟨hbuf, hnch, hk, rfl, rfl⟩, rfl⟩

theorem chunkFrom_settled (h : ChannelsLegal s) (k : Nat) (hbuf : s.regs.kbuf = kbufOf s.regs.kmsg s.regs.csen)
    (hnch : s.regs.nch = chunkCount s.regs.kbuf.length) : Settled (chunkFrom k s) := by
  rcases chunkFrom_cases k s with ⟨hk, he⟩ | ⟨-, he⟩ <;> rw [he]
  · exact writeChunk_settled h hbuf hnch hk _
  · exact .finish h rfl

theorem drainRead_settled (h : ChannelsLegal s) : Settled (drainRead s) :=
  .read h (callLegal_drain h.cfg) ⟨rfl, rfl⟩

theorem drainGot_settled (h : ChannelsLegal s) (bytes : Bytes) : Settled (drainGot bytes s) := by
  unfold drainGot
  split
  · exact chunkFrom_settled (h.mapRegs _) 0 rfl rfl
  · exact drainRead_settled h

/-- The echo is in: whatever it is, KBUF and NCH stand for the next chunk. -/
theorem echoDone_settled (h : ChannelsLegal s) {k : Nat} (hs : ksendHolds s.regs k) : Settled (echoDone k s) := by
  obtain ⟨hbuf, hnch, -⟩ := hs
  rcases echoDone_cases k s with ⟨-, he⟩ | ⟨-, -, he⟩ | ⟨-, -, he⟩ <;> rw [he]
  · exact chunkFrom_settled (h.mapRegs _) _ hbuf hnch
  · exact .raise (h.mapRegs _) _
  · exact chunkFrom_settled ((h.mapRegs _).log _) _ hbuf hnch

/-- A chunk was written: its echo is asked for, all of it (R196). -/
theorem chunkWritten_settled (h : ChannelsLegal s) {k : Nat} (hs : ksendHolds s.regs k) : Settled (chunkWritten k s) := by
  have hlen := ksendHolds_chunk_length hs
  obtain ⟨hbuf, hnch, hk, -, hchunk⟩ := hs
  refine rdexactLoop_settled (total := s.regs.chunk.length) ((h.mapRegs _).mapRegs _) ?_ (by omega)
    (fun hr => ⟨rfl, ⟨hbuf, hnch, hk, rfl, hchunk⟩, decide_eq_true_iff, hr⟩)
    (fun _ => echoDone_settled ((h.mapRegs _).mapRegs _) ⟨hbuf, hnch, hk, rfl, hchunk⟩)
  simp only [mapRegs_regs, List.length_nil, BitVec.toNat_ofNat]
  omega

/-! ### KRECV -/

theorem bodyDone_settled (h : ChannelsLegal s) (hn : 2 ≤ s.regs.hdr.2.toNat)
    (hacc : s.regs.acc.length = s.regs.hdr.2.toNat - 2) : Settled (bodyDone s) :=
  .finish (h.mapRegs _) (message_wellFormed hn hacc)

/-- The header is in: FormatError, or the bytes its length names less the two of the header are wanted (R212 to R214). -/
theorem headerDone_settled (h : ChannelsLegal s) : Settled (headerDone s) := by
  rcases headerDone_cases s with ⟨-, he⟩ | ⟨hn, he⟩ <;> rw [he]
  · exact .raise (h.mapRegs _) _
  · have hrem : (s.regs.acc.getD 1 0 - 2).toNat = (s.regs.acc.getD 1 0).toNat - 2 :=
      BitVec.toNat_sub_of_le (BitVec.le_def.2 hn)
    have hlt := (s.regs.acc.getD 1 0).isLt
    exact rdexactLoop_settled (total := (s.regs.acc.getD 1 0).toNat - 2) ((h.mapRegs _).mapRegs _)
      ((Nat.zero_add _).trans hrem) (by omega) (fun hr => ⟨rfl, hn, hr⟩)
      (fun hacc => bodyDone_settled ((h.mapRegs _).mapRegs _) hn hacc)

/-! ### SENDMANY -/

theorem txbuf_length {r : Regs} (hs : sendmanyHolds r) : r.txbuf.length = 16 * r.frames.length := by
  rw [hs.2, slots_length]

/-- The next slot goes out, or SENDMANY ends (41_bus_multiplexer.md R143). -/
theorem sendFrom_settled (h : ChannelsLegal s) (hs : sendmanyHolds s.regs) (hb : s.cfg.batch = false) (j : Nat) :
    Settled (sendFrom j s) := by
  rcases sendFrom_cases j s with ⟨hj, he⟩ | ⟨-, he⟩ <;> rw [he]
  · refine .write ((h.mapRegs _).mapRegs _) (callLegal_slots ?_) ⟨rfl, hs, Nat.le_refl 1, ?_⟩
    · rw [sliceAt_length (txbuf_length hs) hj]
    · simp only [issueWrite_cfg, mapRegs_cfg, hb, Bool.false_eq_true, if_false]
      exact ⟨hj, rfl, rfl⟩
  · exact .finish h rfl

theorem sendSlots_settled (h : ChannelsLegal s) (hs : sendmanyHolds s.regs) : Settled (sendSlots s) := by
  unfold sendSlots
  split
  next hb =>
    refine .write (h.mapRegs _) (callLegal_slots ?_) ⟨rfl, hs, Nat.le_refl 1, ?_⟩
    · rw [txbuf_length hs]; omega
    · simp [hb]
  next hb => exact sendFrom_settled h hs (by simpa using hb) 0

theorem sendWritten_settled (h : ChannelsLegal s) (hs : sendmanyHolds s.regs) (j : Nat) : Settled (sendWritten j s) := by
  unfold sendWritten
  split
  next => exact .finish h rfl
  next hb => exact sendFrom_settled h hs (by simpa using hb) _

/-- The registers after capture and encoding of frames that were validated (R140 to R142). -/
theorem encodeFrames_sendmanyHolds {fs : List TxFrame} (hf : fs.any (fun f => payloadTooLong f.data) = false) (r : Regs) :
    sendmanyHolds (encodeFrames fs r) := by
  refine ⟨?_, by simp⟩
  simpa [payloadTooLong] using hf

/-! ### CANRECV -/

/-- A read of at most 4096 bytes holds at most 256 slots (R146). -/
theorem receiveBytes_settled (h : ChannelsLegal s) {bytes : Bytes} (hb : bytes.length ≤ 4096) :
    Settled (receiveBytes bytes s) := by
  obtain ⟨regs, he⟩ := receiveBytes_spec bytes s
  rw [he]
  refine Settled.respond (h.mapRegs fun _ => regs) (receiveResult_wellFormed _ ?_ ?_)
  · rw [List.length_map, slotsOf_length]; omega
  · intro f hf
    obtain ⟨sl, -, hsl⟩ := List.mem_map.1 hf
    exact decodeSlot_wellFormed hsl

/-! ### TransportRetry -/

/-- A transient answer at SM_WR(j): the end, or the same call with ATT one higher (42_transport_retry.md R161, R163). -/
theorem retryWrite_settled (h : Settled s) {j : Nat} {ep : WriteEndpoint} {buf : Bytes}
    (hp : s.phase = .writing (.smWr j) ep buf) : Settled (retryWrite (.smWr j) ep buf s) := by
  rcases retryWrite_cases (.smWr j) ep buf s with ⟨-, he⟩ | ⟨-, he⟩ <;> rw [he]
  · exact .raise h.channels _
  · have hw := h.phase
    simp only [phaseHolds, hp] at hw
    obtain ⟨rfl, hs, -, hbuf⟩ := hw
    refine .write (h.channels.mapRegs _) (callLegal_slots ?_) ⟨rfl, hs, Nat.le_add_left 1 _, hbuf⟩
    split at hbuf
    · rw [hbuf.2, txbuf_length hs]; omega
    · rw [hbuf.2.2, sliceAt_length (txbuf_length hs) hbuf.1]

theorem retryRead_settled (h : Settled s) {ep : ReadEndpoint} {max : Nat} (hp : s.phase = .reading .crRd ep max) :
    Settled (retryRead .crRd ep max s) := by
  rcases retryRead_cases .crRd ep max s with ⟨-, he⟩ | ⟨-, he⟩ <;> rw [he]
  · exact .raise h.channels _
  · have hr := h.phase
    simp only [phaseHolds, hp] at hr
    obtain ⟨rfl, rfl, -⟩ := hr
    exact .read (h.channels.mapRegs _) rfl ⟨rfl, rfl, Nat.le_add_left 1 _⟩

/-! ### Transport answers -/

theorem resumeWrite_settled (h : Settled s) {p : WritePoint} {ep : WriteEndpoint} {buf : Bytes}
    (hp : s.phase = .writing p ep buf) (a : Answer) : Settled (resumeWrite p ep buf a s) := by
  have hw := h.phase
  simp only [phaseHolds, hp] at hw
  cases a <;> cases p <;> simp only [resumeWrite]
  case ok.smWr j =>
    obtain ⟨-, hs, -⟩ := hw
    exact sendWritten_settled h.channels hs j
  case ok.ksWr k =>
    obtain ⟨-, hs, -⟩ := hw
    exact chunkWritten_settled h.channels hs
  case transientIOError.smWr => exact retryWrite_settled h hp
  all_goals exact .raise h.channels _

/-- The bytes of a read, no more than it asked for, go to the operation that waits. -/
theorem deliver_settled (h : Settled s) {p : ReadPoint} {ep : ReadEndpoint} {max : Nat}
    (hp : s.phase = .reading p ep max) {bytes : Bytes} (hb : bytes.length ≤ max) : Settled (deliver p ep bytes s) := by
  have hr := h.phase
  have hc := h.channels
  simp only [phaseHolds, hp] at hr
  cases p with
  | crRd =>
    obtain ⟨-, rfl, -⟩ := hr
    exact receiveBytes_settled hc hb
  | ksDrain => exact drainGot_settled hc bytes
  | ksEcho k =>
    obtain ⟨rfl, hs, hfin, htot, rfl, -⟩ := hr
    have hlen := ksendHolds_chunk_length hs
    exact rdexactLoop_settled (hc.mapRegs _) (rdexact_progress htot hb) (by omega) (fun hr => ⟨rfl, hs, hfin, hr⟩)
      (fun _ => echoDone_settled (hc.mapRegs _) hs)
  | krHdr =>
    obtain ⟨rfl, htot, rfl, -⟩ := hr
    exact rdexactLoop_settled (hc.mapRegs _) (rdexact_progress htot hb) (by omega) (fun hr => ⟨rfl, hr⟩)
      (fun _ => headerDone_settled (hc.mapRegs _))
  | krBody =>
    obtain ⟨rfl, hn, htot, rfl, -⟩ := hr
    have hlt := s.regs.hdr.2.isLt
    exact rdexactLoop_settled (hc.mapRegs _) (rdexact_progress htot hb) (by omega) (fun hr => ⟨rfl, hn, hr⟩)
      (fun hacc => bodyDone_settled (hc.mapRegs _) hn hacc)

end

/-! ### Commands -/

section
variable {s t : State}

theorem execEncode_settled (h : ChannelsLegal s) {address : Address} {data : Bytes} {bus : Byte}
    (he : execEncode address data bus s = .next t) : Settled t := by
  unfold execEncode at he
  split at he <;> cases he
  · exact .raise (h.mapRegs _) _
  · exact .finish (h.mapRegs _) rfl

theorem execDecode_settled (h : ChannelsLegal s) {slot : Slot} (he : execDecode slot s = .next t) : Settled t := by
  simp only [execDecode] at he
  split at he <;> cases he
  next => exact .raise (h.mapRegs _) _
  next hl =>
    have hslot := decodeInto_result slot s.regs
    rw [mapRegs_regs] at hl
    rw [if_neg hl] at hslot
    exact .finish (h.mapRegs _) (decodeSlot_wellFormed hslot.symm)

theorem execSendmany_settled (h : ChannelsLegal s) {fs : List TxFrame} (he : execSendmany fs s = .next t) :
    Settled t := by
  unfold execSendmany at he
  split at he
  · split at he <;> cases he
    next => exact .raise (h.mapRegs _) _
    next hf => exact sendSlots_settled (h.mapRegs _) (encodeFrames_sendmanyHolds (by simpa using hf) _)
  · cases he

theorem execCanrecv_settled (h : ChannelsLegal s) (he : execCanrecv s = .next t) : Settled t := by
  cases he
  exact .read (h.mapRegs _) rfl ⟨rfl, rfl, Nat.le_refl 1⟩

theorem execKsend_settled (h : ChannelsLegal s) {message : Bytes} {bus : Byte} {cs : Bool}
    (he : execKsend message bus cs s = .next t) : Settled t := by
  unfold execKsend at he
  split at he <;> cases he
  exact drainRead_settled ((h.mapRegs _).mapRegs _)

theorem execKrecv_settled (h : ChannelsLegal s) {bus : Byte} (he : execKrecv bus s = .next t) : Settled t := by
  cases he
  exact rdexactLoop_settled (total := 2) ((h.mapRegs _).mapRegs _) rfl (by omega) (fun hr => ⟨rfl, hr⟩)
    (fun _ => headerDone_settled ((h.mapRegs _).mapRegs _))

/-- Every instruction the host can issue runs to its end or to a suspension point its registers agree with; the reserved
`op` values are refused (30_encoding.md R102). -/
theorem exec_settled (h : ChannelsLegal s) {i : Instr} (hi : i.hostIssuable = true) (he : exec i s = .next t) :
    Settled t := by
  cases i <;> simp only [Instr.hostIssuable, Bool.false_eq_true] at hi
  case encode => exact execEncode_settled h he
  case decode => exact execDecode_settled h he
  case sendmany => exact execSendmany_settled h he
  case canrecv => exact execCanrecv_settled h he
  case ksend => exact execKsend_settled h he
  case krecv => exact execKrecv_settled h he
  all_goals cases he

end

end Sys2Proof.Machine
end

section
/-! SUPPORT. The invariant through a step: the shared frame (SameEnv) and what the operations keep (Settled) together. -/

namespace Sys2Proof.Machine

namespace Inv

variable {s t : State}

theorem settled (h : Inv s) : Settled s := ⟨⟨h.cfg_legal, h.calls_legal, h.rsps_legal⟩, h.phase_holds⟩

/-- Work of the block that settles keeps the invariant. -/
theorem of_sameEnv (h : Inv s) (he : SameEnv s t) (ht : Settled t) : Inv t where
  cfg_legal := ht.channels.cfg
  inbound_wf := he.inbound ▸ h.inbound_wf
  latch_empty := he.latch.trans h.latch_empty
  calls_legal := ht.channels.calls
  rsps_legal := ht.channels.rsps
  phase_holds := ht.phase
  log_kept := he.log.suffix h.log_kept

theorem raise (h : Inv s) (k : ErrorKind) : Inv (raiseError k s) :=
  h.of_sameEnv (.ofRaise k) (.raise h.settled.channels k)

/-! ### The environment's own moves -/

/-- The events to come are not part of the invariant. -/
theorem setInbox (h : Inv s) (rest : List Event) : Inv { s with inbox := rest } :=
  ⟨h.cfg_legal, h.inbound_wf, h.latch_empty, h.calls_legal, h.rsps_legal, h.phase_holds, h.log_kept⟩

/-- Nor is the connection. -/
theorem setConn (h : Inv s) (c : Conn) : Inv { s with conn := c } :=
  ⟨h.cfg_legal, h.inbound_wf, h.latch_empty, h.calls_legal, h.rsps_legal, h.phase_holds, h.log_kept⟩

theorem consume (h : Inv s) (ep : ReadEndpoint) (n : Nat) : Inv (s.consume ep n) :=
  ⟨h.cfg_legal, consume_inbound_wf ep n h.inbound_wf, h.latch_empty, h.calls_legal, h.rsps_legal, h.phase_holds,
    h.log_kept⟩

theorem arrive (h : Inv s) (ep : ReadEndpoint) (bytes : Bytes) : Inv (s.arrive ep bytes) :=
  ⟨h.cfg_legal, arrive_inbound_wf ep bytes h.inbound_wf, h.latch_empty, h.calls_legal, h.rsps_legal, h.phase_holds,
    h.log_kept⟩

theorem reset (h : Inv s) : Inv (resetBlock s) :=
  ⟨h.cfg_legal, h.inbound_wf, h.latch_empty, h.calls_legal, h.rsps_legal, trivial, List.nil_suffix⟩

/-! ### Answers and commands -/

theorem of_resumeRead (h : Inv s) {p : ReadPoint} {ep : ReadEndpoint} {max : Nat} (hp : s.phase = .reading p ep max)
    {a : Answer} (he : resumeRead p ep max a s = .next t) : Inv t := by
  cases a with
  | ok n =>
    simp only [resumeRead] at he
    split at he <;> cases he
    next hlen =>
      have hc := h.consume ep n
      exact hc.of_sameEnv (.ofDeliver _ _ _) (deliver_settled hc.settled hp (by omega))
  | transientIOError =>
    cases p <;> simp only [resumeRead] at he <;> cases he
    case crRd.refl => exact h.of_sameEnv (.ofRetryRead _ _ _) (retryRead_settled h.settled hp)
    all_goals exact h.raise _
  | connectionError => cases he; exact h.raise _
  | otherTransportError => cases he; exact h.raise _

theorem of_resume (h : Inv s) {a : Answer} (he : resume a s = .next t) : Inv t := by
  unfold resume at he
  split at he
  next => cases he; exact h
  next hp => cases he; exact h.of_sameEnv (.ofResumeWrite _ _ _ _) (resumeWrite_settled h.settled hp _)
  next hp => exact h.of_resumeRead hp he

/-- A command is an instruction the host can issue, or it is refused (60_exceptions.md R246). -/
theorem of_takeCommand (h : Inv s) {bytes : Bytes} (he : takeCommand bytes s = .next t) : Inv t := by
  unfold takeCommand at he
  split at he
  · unfold runBytes at he
    split at he
    next hd => exact h.of_sameEnv (.ofExec he) (exec_settled h.settled.channels (decodeCmd_readsHostRows bytes _ _ hd) he)
    next => cases he
  · cases he
  · cases he

theorem of_handleEvent (h : Inv s) {e : Event} (he : handleEvent e s = .next t) : Inv t := by
  cases e with
  | command bytes => exact h.of_takeCommand he
  | answer a => exact h.of_resume he
  | arrive ep bytes => cases he; exact h.arrive ep bytes
  | lose ep n => cases he; exact h.consume ep n
  | connect => cases he; exact h.setConn _
  | close => cases he; exact h.setConn _
  | reset => cases he; exact h.reset

theorem of_wait (h : Inv s) (he : wait s = .next t) : Inv t := by
  unfold wait at he
  split at he
  · cases he; exact h
  · exact h.of_resume he
  · exact h.of_resume he

theorem of_step (h : Inv s) (he : step s = .next t) : Inv t := by
  cases hu : s.upcoming with
  | nil => exact h.of_wait (step_wait h.latch_empty hu ▸ he)
  | cons e rest => exact (h.setInbox rest).of_handleEvent (step_upcoming h.latch_empty hu ▸ he)

end Inv

/-- Settles O60: the frame every operation shares keeps the parameters, the inbound sides, the latch and the log; each way on
of an operation keeps the channels and agrees with the suspension point it stops at. -/
theorem stepKeepsTheInvariant : Obligations.StepKeepsTheInvariant :=
  fun _ _ hs hstep => hs.of_step hstep

end Sys2Proof.Machine
end

section
/-! SUPPORT. What one step can do, said once: where its instruction or its answer comes from (10_state.md R26), and what the
work of the block adds to the channels RSP, TP and LOG. -/

namespace Sys2Proof.Machine

variable {s t u : State}

/-! ### Where the work of a step comes from -/

/-- Bytes that go on stand for an instruction, and its meaning is run. -/
theorem runBytes_cases {port : Port} {bytes : Bytes} (h : runBytes port bytes s = .next t) :
    ∃ i more, decode port bytes = .ok (i, more) ∧ exec i s = .next t := by
  unfold runBytes at h
  split at h
  next i more hd => exact ⟨i, more, hd, h⟩
  next => cases h

/-- A command that goes on found the block idle. -/
theorem takeCommand_cases {bytes : Bytes} (h : takeCommand bytes s = .next t) :
    s.phase = .idle ∧ ∃ i more, decode .cmd bytes = .ok (i, more) ∧ exec i s = .next t := by
  unfold takeCommand at h
  split at h
  next hp => exact ⟨hp, runBytes_cases h⟩
  all_goals cases h

/-- Waiting changes nothing, or answers the call of a connection that is not up (20_memory.md R53). -/
theorem wait_cases (h : wait s = .next t) : t = s ∨ resume .connectionError s = .next t := by
  unfold wait at h
  split at h
  · cases h; exact .inl rfl
  all_goals exact .inr h

/-- A step runs the latch, takes the next event, or waits. -/
theorem step_cases (h : step s = .next t) :
    (s.latch ≠ none ∧ ∃ i, exec i { s with latch := none } = .next t) ∨
      s.latch = none ∧
        ((∃ e rest, s.upcoming = e :: rest ∧ handleEvent e { s with inbox := rest } = .next t) ∨ wait s = .next t) := by
  rcases Option.eq_none_or_eq_some s.latch with hl | ⟨input, hl⟩
  · refine .inr ⟨hl, ?_⟩
    cases hu : s.upcoming with
    | cons e rest => exact .inl ⟨e, rest, rfl, step_upcoming hl hu ▸ h⟩
    | nil => exact .inr (step_wait hl hu ▸ h)
  · obtain ⟨i, -, -, he⟩ := runBytes_cases (step_latch hl ▸ h)
    exact .inl ⟨by simp [hl], i, he⟩

/-! ### What the work of a step adds to the channels -/

/-- No response, or one and the block is idle; no transport call, or one and the block waits on it (R29, R63). -/
structure OneMove (s t : State) : Prop where
  rsps  : t.rsps = s.rsps ∨ ∃ r, t.rsps = s.rsps ++ [r] ∧ t.phase = .idle
  calls : t.calls = s.calls ∨
    (∃ p ep bytes, t.phase = .writing p ep bytes ∧ t.calls = s.calls ++ [.write ep bytes]) ∨
    (∃ p ep max, t.phase = .reading p ep max ∧ t.calls = s.calls ++ [.read ep max])

/-- Nothing is logged: neither `klog` nor the events emitted change. -/
def LogSame (s t : State) : Prop := t.klog = s.klog ∧ t.logs = s.logs

/-- One move of the block with nothing logged. -/
structure QuietMove (s t : State) : Prop extends OneMove s t where
  log : LogSame s t

/-- What happens before a move and touches neither responses nor calls belongs to it. -/
theorem OneMove.after (h : OneMove u t) (hr : u.rsps = s.rsps := by rfl) (hc : u.calls = s.calls := by rfl) :
    OneMove s t := ⟨hr ▸ h.rsps, hc ▸ h.calls⟩

/-- What happens before a quiet move and touches no channel belongs to it. -/
theorem QuietMove.after (h : QuietMove u t) (hr : u.rsps = s.rsps := by rfl) (hc : u.calls = s.calls := by rfl)
    (hl : LogSame s u := by exact ⟨rfl, rfl⟩) : QuietMove s t :=
  ⟨h.toOneMove.after hr hc, h.log.1.trans hl.1, h.log.2.trans hl.2⟩

namespace QuietMove

/-! ### The moves that log nothing -/

/-- No channel is touched. -/
theorem ofSame (hr : t.rsps = s.rsps := by rfl) (hc : t.calls = s.calls := by rfl)
    (hl : LogSame s t := by exact ⟨rfl, rfl⟩) : QuietMove s t := ⟨⟨.inl hr, .inl hc⟩, hl⟩

theorem ofRespond (r : Response) : QuietMove s (respond r s) := ⟨⟨.inr ⟨r, rfl, rfl⟩, .inl rfl⟩, rfl, rfl⟩

theorem ofRaise (k : ErrorKind) : QuietMove s (raiseError k s) := ofRespond _

theorem ofFinish (v : Result) : QuietMove s (finish v s) := ofRespond _

theorem ofWrite (p : WritePoint) (ep : WriteEndpoint) (b : Bytes) : QuietMove s (issueWrite p ep b s) :=
  ⟨⟨.inl rfl, .inr (.inl ⟨p, ep, b, rfl, rfl⟩)⟩, rfl, rfl⟩

theorem ofRead (p : ReadPoint) (ep : ReadEndpoint) (n : Nat) : QuietMove s (issueRead p ep n s) :=
  ⟨⟨.inl rfl, .inr (.inr ⟨p, ep, n, rfl, rfl⟩)⟩, rfl, rfl⟩

theorem ofChunkFrom (k : Nat) : QuietMove s (chunkFrom k s) := by
  rcases chunkFrom_cases k s with ⟨-, h⟩ | ⟨-, h⟩ <;> rw [h]
  · exact (ofWrite _ _ _).after
  · exact ofFinish _

theorem ofDrainGot (bytes : Bytes) : QuietMove s (drainGot bytes s) := by
  unfold drainGot
  split
  · exact (ofChunkFrom 0).after
  · exact ofRead _ _ _

theorem ofLoop {point : ReadPoint} {ep : ReadEndpoint} {done : State → State}
    (hd : s.regs.need = 0 → QuietMove s (done s)) : QuietMove s (rdexactLoop point ep done s) := by
  rcases rdexactLoop_cases point ep done s with ⟨hn, h⟩ | ⟨-, h⟩ <;> rw [h]
  · exact hd hn
  · exact ofRead _ _ _

theorem ofBodyDone : QuietMove s (bodyDone s) := (ofFinish _).after

theorem ofHeaderDone : QuietMove s (headerDone s) := by
  rcases headerDone_cases s with ⟨-, h⟩ | ⟨-, h⟩ <;> rw [h]
  · exact (ofRaise _).after
  · exact (ofLoop fun _ => ofBodyDone).after

theorem ofSendFrom (j : Nat) : QuietMove s (sendFrom j s) := by
  rcases sendFrom_cases j s with ⟨-, h⟩ | ⟨-, h⟩ <;> rw [h]
  · exact (ofWrite _ _ _).after
  · exact ofFinish _

theorem ofSendSlots : QuietMove s (sendSlots s) := by
  unfold sendSlots
  split
  · exact (ofWrite _ _ _).after
  · exact ofSendFrom _

theorem ofSendWritten (j : Nat) : QuietMove s (sendWritten j s) := by
  unfold sendWritten
  split
  · exact ofFinish _
  · exact ofSendFrom _

theorem ofRetryWrite (p : WritePoint) (ep : WriteEndpoint) (b : Bytes) : QuietMove s (retryWrite p ep b s) := by
  rcases retryWrite_cases p ep b s with ⟨-, h⟩ | ⟨-, h⟩ <;> rw [h]
  · exact ofRaise _
  · exact (ofWrite _ _ _).after

theorem ofRetryRead (p : ReadPoint) (ep : ReadEndpoint) (n : Nat) : QuietMove s (retryRead p ep n s) := by
  rcases retryRead_cases p ep n s with ⟨-, h⟩ | ⟨-, h⟩ <;> rw [h]
  · exact ofRaise _
  · exact (ofRead _ _ _).after

theorem ofReceive (bytes : Bytes) : QuietMove s (receiveBytes bytes s) := by
  obtain ⟨regs, h⟩ := receiveBytes_spec bytes s
  rw [h]
  exact (ofRespond _).after

/-- A chunk of 1 to 15 bytes was written: its echo is read, and nothing is compared yet (R196). -/
theorem ofChunkWritten (k : Nat) (hc : 1 ≤ s.regs.chunk.length ∧ s.regs.chunk.length ≤ 15) :
    QuietMove s (chunkWritten k s) := by
  refine (ofLoop fun hn => ?_).after
  have h0 : s.regs.chunk.length % 256 = 0 := by simpa using congrArg BitVec.toNat hn
  omega

end QuietMove

/-! ### The echo, which alone can log -/

namespace OneMove

/-- Also a logged mismatch goes on to one move. -/
theorem ofEchoDone (k : Nat) : OneMove s (echoDone k s) := by
  rcases echoDone_cases k s with ⟨-, h⟩ | ⟨-, -, h⟩ | ⟨-, -, h⟩ <;> rw [h]
  · exact (QuietMove.ofChunkFrom _).toOneMove.after
  · exact (QuietMove.ofRaise _).toOneMove.after
  · exact (QuietMove.ofChunkFrom _).toOneMove.after

theorem ofLoop {point : ReadPoint} {ep : ReadEndpoint} {done : State → State} (hd : OneMove s (done s)) :
    OneMove s (rdexactLoop point ep done s) := by
  rcases rdexactLoop_cases point ep done s with ⟨-, h⟩ | ⟨-, h⟩ <;> rw [h]
  · exact hd
  · exact (QuietMove.ofRead _ _ _).toOneMove

theorem ofCallerDone (c : RdCaller) (k : Nat) : OneMove s (callerDone c k s) := by
  cases c
  · exact ofEchoDone k
  · exact QuietMove.ofHeaderDone.toOneMove
  · exact QuietMove.ofBodyDone.toOneMove

end OneMove

/-! ### Instructions -/

/-- ENCODE is a rewrite of the working registers and a response, both fixed by its operands (40_frame_codec.md R120). -/
theorem exec_encode_eq (a : Address) (d : Bytes) (b : Byte) :
    ∃ (r : Response) (f : Regs → Regs), ∀ s, exec (.encode a d b) s = .next (respond r (s.mapRegs f)) := by
  cases h : payloadTooLong d
  · exact ⟨.ok (.slot (encodeSlot a d b)), encodeInto a d b, fun s => by simp [exec, execEncode, h, finish]⟩
  · exact ⟨.error .callerError, captureFrame a d b, fun s => by simp [exec, execEncode, h, raiseError]⟩

/-- DECODE is a rewrite of the working registers and a response, both fixed by its slot (R125). -/
theorem exec_decode_eq (sl : Slot) :
    ∃ (r : Response) (f : Regs → Regs), ∀ s, exec (.decode sl) s = .next (respond r (s.mapRegs f)) := by
  cases h : lengthIllegal (wordLength (slotWord2 sl))
  · refine ⟨.ok (.frame ⟨wordAddress (slotWord1 sl), slotPayload sl (wordLength (slotWord2 sl)).toNat,
      wordBus (slotWord2 sl), wordCounter (slotWord2 sl)⟩), decodeInto sl, fun s => ?_⟩
    simp [exec, execDecode, decodeInto, readWord2, readWord1, frameOf, h, finish]
  · exact ⟨.error .formatError, decodeInto sl, fun s => by simp [exec, execDecode, decodeInto_len, h, raiseError]⟩

/-- An instruction that goes on makes at most one response and one call; only a micro-operation, which no host can issue,
can log. -/
theorem exec_oneMove {i : Instr} (h : exec i s = .next t) :
    OneMove s t ∧ (i.hostIssuable = true → LogSame s t) := by
  have quiet : QuietMove s t → OneMove s t ∧ (i.hostIssuable = true → LogSame s t) :=
    fun q => ⟨q.toOneMove, fun _ => q.log⟩
  cases i
  case encode a d b =>
    obtain ⟨r, f, he⟩ := exec_encode_eq a d b
    cases (he s).symm.trans h
    exact quiet (QuietMove.ofRespond r).after
  case decode sl =>
    obtain ⟨r, f, he⟩ := exec_decode_eq sl
    cases (he s).symm.trans h
    exact quiet (QuietMove.ofRespond r).after
  case sendmany =>
    simp only [exec, execSendmany] at h
    split at h
    · split at h <;> cases h
      · exact quiet (QuietMove.ofRaise _).after
      · exact quiet QuietMove.ofSendSlots.after
    · cases h
  case ksend =>
    simp only [exec, execKsend] at h
    split at h <;> cases h
    exact quiet (QuietMove.ofRead _ _ _).after
  case krecv => cases h; exact quiet (QuietMove.ofLoop fun _ => .ofHeaderDone).after
  case kecho => cases h; exact ⟨(OneMove.ofLoop (.ofEchoDone _)).after, nofun⟩
  case rdexact => cases h; exact ⟨(OneMove.ofLoop (.ofCallerDone _ _)).after, nofun⟩
  case canslotPayload =>
    simp only [exec, execCanslotPayload] at h
    split at h <;> cases h
    · exact quiet (.ofRaise _)
    · exact quiet .ofSame
  case krxmsgHdrLegal =>
    simp only [exec, execKrxmsgHdrLegal] at h
    split at h <;> cases h
    · exact quiet (QuietMove.ofRaise _).after
    · exact quiet .ofSame
  case canrecv | rdretry | kdrain => cases h; exact quiet (QuietMove.ofRead _ _ _).after
  case wrretry | kchunk => cases h; exact quiet (QuietMove.ofWrite _ _ _).after
  case canslotW2Illegal9 | canslotW2Illegal10to11 | canslotW2Illegal12to15 | krxmsgHdrIllegal =>
    cases h; exact quiet (QuietMove.ofRaise _).after
  case rsp r => cases h; exact quiet (.ofRespond r)
  case canslotW1Std | canslotW1Ext | canslotW1StdEnc | canslotW1ExtEnc | canslotW2Len0to7 | canslotW2Len8 | canslotW2Enc
      | kbuf => cases h; exact quiet .ofSame
  -- What is left are the reserved values of `op`, which are refused (30_encoding.md R102).
  all_goals cases h

/-! ### Transport answers -/

/-- The work of an answer to a write logs nothing by itself; behind a chunk it goes on to the echo (R175, R179). -/
theorem resumeWrite_cases (p : WritePoint) (ep : WriteEndpoint) (buf : Bytes) (a : Answer) (s : State) :
    QuietMove s (resumeWrite p ep buf a s) ∨ ∃ k, p = .ksWr k ∧ resumeWrite p ep buf a s = chunkWritten k s := by
  cases a <;> cases p
  case ok.smWr => exact .inl (.ofSendWritten _)
  case ok.ksWr k => exact .inr ⟨k, rfl, rfl⟩
  case transientIOError.smWr => exact .inl (.ofRetryWrite _ _ _)
  all_goals exact .inl (.ofRaise _)

/-- The bytes of a read go to an echo, or the work they are for logs nothing. -/
theorem deliver_cases (p : ReadPoint) (ep : ReadEndpoint) (bytes : Bytes) (s : State) :
    QuietMove s (deliver p ep bytes s) ∨
      ∃ k, p = .ksEcho k ∧ deliver p ep bytes s = rdexactGot (.ksEcho k) ep (echoDone k) bytes s := by
  cases p with
  | crRd => exact .inl (.ofReceive _)
  | ksDrain => exact .inl (.ofDrainGot _)
  | ksEcho k => exact .inr ⟨k, rfl, rfl⟩
  | krHdr => exact .inl (QuietMove.ofLoop fun _ => .ofHeaderDone).after
  | krBody => exact .inl (QuietMove.ofLoop fun _ => .ofBodyDone).after

/-- An answer to a read is refused when too long, delivered when Ok, and else ends the operation or is retried. -/
theorem resumeRead_cases {p : ReadPoint} {ep : ReadEndpoint} {max : Nat} {a : Answer}
    (h : resumeRead p ep max a s = .next t) :
    QuietMove s t ∨ ∃ n, (s.peek ep n).length ≤ max ∧ t = deliver p ep (s.peek ep n) (s.consume ep n) := by
  cases a with
  | ok n =>
    simp only [resumeRead] at h
    split at h <;> cases h
    next hlen => exact .inr ⟨n, Nat.le_of_not_lt hlen, rfl⟩
  | transientIOError =>
    cases p <;> cases h
    case crRd.refl => exact .inl (.ofRetryRead _ _ _)
    all_goals exact .inl (.ofRaise _)
  | connectionError => cases h; exact .inl (.ofRaise _)
  | otherTransportError => cases h; exact .inl (.ofRaise _)

/-- An answer logs nothing, or a chunk was written, or bytes of an echo came in. -/
theorem resume_cases {a : Answer} (h : resume a s = .next t) :
    QuietMove s t ∨
      (∃ k ep buf, s.phase = .writing (.ksWr k) ep buf ∧ t = chunkWritten k s) ∨
      ∃ k ep max n, s.phase = .reading (.ksEcho k) ep max ∧ (s.peek ep n).length ≤ max ∧
        t = rdexactGot (.ksEcho k) ep (echoDone k) (s.peek ep n) (s.consume ep n) := by
  unfold resume at h
  split at h
  next => cases h; exact .inl .ofSame
  next p ep buf hp =>
    cases h
    obtain q | ⟨k, rfl, he⟩ := resumeWrite_cases p ep buf (a.under s.conn) s
    · exact .inl q
    · exact .inr (.inl ⟨k, ep, buf, hp, he⟩)
  next p ep max hp =>
    obtain q | ⟨n, hn, rfl⟩ := resumeRead_cases h
    · exact .inl q
    obtain q | ⟨k, rfl, he⟩ := deliver_cases p ep (s.peek ep n) (s.consume ep n)
    · exact .inl q.after
    · exact .inr (.inr ⟨k, ep, max, n, hp, hn, he⟩)

theorem resume_oneMove {a : Answer} (h : resume a s = .next t) : OneMove s t := by
  obtain q | ⟨k, -, -, -, rfl⟩ | ⟨k, -, -, -, -, -, rfl⟩ := resume_cases h
  · exact q.toOneMove
  all_goals exact (OneMove.ofLoop (.ofEchoDone k)).after

theorem handleEvent_oneMove {e : Event} (h : handleEvent e s = .next t) : OneMove s t := by
  cases e with
  | command bytes =>
    obtain ⟨-, i, -, -, he⟩ := takeCommand_cases h
    exact (exec_oneMove he).1
  | answer a => exact resume_oneMove h
  | arrive | lose | connect | close | reset => cases h; exact ⟨.inl rfl, .inl rfl⟩

/-- Settles O58: an instruction, an answer and an event of the environment each make at most one move. -/
theorem oneResponseAndOneCallAtATime : Obligations.OneResponseAndOneCallAtATime := by
  intro s t h
  suffices m : OneMove s t from ⟨m.rsps, m.calls⟩
  obtain ⟨-, i, he⟩ | ⟨-, ⟨e, rest, -, he⟩ | he⟩ := step_cases h
  · exact (exec_oneMove he).1.after
  · exact (handleEvent_oneMove he).after
  · obtain rfl | hr := wait_cases he
    · exact ⟨.inl rfl, .inl rfl⟩
    · exact resume_oneMove hr

end Sys2Proof.Machine
end

section
/-! SUPPORT. The log: what an awaited echo adds to it (10_state.md R30, 44_kline_echo_verifier.md R199). -/

namespace Sys2Proof.Machine

variable {s t : State}

/-- An echo was awaited, it has the length of the chunk and differs from it, and this one mismatch is logged. -/
def EchoLogged (s t : State) : Prop :=
  ∃ (k : Nat) (ep : ReadEndpoint) (max : Nat) (e : LogEntry), s.phase = .reading (.ksEcho k) ep max ∧ e.k = k ∧
    e.sent = s.regs.chunk ∧ e.echo.length = e.sent.length ∧ e.echo ≠ e.sent ∧ t.klog = s.klog ++ [e] ∧
    t.logs = s.logs ++ [e]

/-- With all bytes of the echo in, the comparison logs nothing or the mismatch it found (R197 to R199). -/
theorem echoLoop_log (k : Nat) (ep : ReadEndpoint) (s : State)
    (htot : s.regs.acc.length + s.regs.need.toNat = s.regs.chunk.length) :
    LogSame s (rdexactLoop (.ksEcho k) ep (echoDone k) s) ∨
      (s.regs.acc.length = s.regs.chunk.length ∧ s.regs.acc ≠ s.regs.chunk ∧
        LogSame (logEvent ⟨k, s.regs.chunk, s.regs.acc⟩ s) (rdexactLoop (.ksEcho k) ep (echoDone k) s)) := by
  obtain ⟨hn, he⟩ | ⟨-, he⟩ := rdexactLoop_cases (.ksEcho k) ep (echoDone k) s <;> rw [he]
  · obtain ⟨-, hd⟩ | ⟨-, -, hd⟩ | ⟨hne, -, hd⟩ := echoDone_cases k s <;> rw [hd]
    · exact .inl (QuietMove.ofChunkFrom _).log
    · exact .inl ⟨rfl, rfl⟩
    · exact .inr ⟨by simpa [hn] using htot, hne, (QuietMove.ofChunkFrom _).log⟩
  · exact .inl ⟨rfl, rfl⟩

namespace Inv

/-- An answer in a state that meets the invariant logs at most the mismatch of the echo that was awaited. -/
theorem log_of_resume (h : Inv s) {a : Answer} (he : resume a s = .next t) : LogSame s t ∨ EchoLogged s t := by
  have hphase := h.phase_holds
  obtain q | ⟨k, ep, buf, hp, rfl⟩ | ⟨k, ep, max, n, hp, hn, rfl⟩ := resume_cases he
  · exact .inl q.log
  · simp only [phaseHolds, hp] at hphase
    obtain ⟨-, hs, -⟩ := hphase
    exact .inl (QuietMove.ofChunkWritten k (ksendHolds_chunk_length hs)).log
  · simp only [phaseHolds, hp] at hphase
    obtain ⟨-, -, -, htot, rfl, -⟩ := hphase
    obtain same | ⟨hlen, hne, hk, hl⟩ := echoLoop_log k ep
      ((s.consume ep n).mapRegs fun r =>
        { r with acc := r.acc ++ s.peek ep n, need := r.need - BitVec.ofNat 8 (s.peek ep n).length })
      (rdexact_progress htot hn)
    · exact .inl same
    · exact .inr ⟨k, ep, _, _, hp, rfl, rfl, hlen, hne, hk, hl⟩

theorem log_of_handleEvent (h : Inv s) {e : Event} (he : handleEvent e s = .next t) :
    (e = .reset ∧ t.klog = [] ∧ t.logs = s.logs) ∨ LogSame s t ∨ EchoLogged s t := by
  cases e with
  | command bytes =>
    obtain ⟨-, i, more, hd, hi⟩ := takeCommand_cases he
    exact .inr (.inl ((exec_oneMove hi).2 (decodeCmd_readsHostRows bytes i more hd)))
  | answer a => exact .inr (h.log_of_resume he)
  | arrive | lose | connect | close => cases he; exact .inr (.inl ⟨rfl, rfl⟩)
  | reset => cases he; exact .inl ⟨rfl, rfl, rfl⟩

end Inv

/-- Settles O57: a command a host can issue logs nothing, an answer at most the mismatch of the awaited echo, and of the
environment's own events only a reset touches the log. -/
theorem logOnlyGrows : Obligations.LogOnlyGrows := by
  intro s t hs h
  obtain ⟨hl, -⟩ | ⟨-, ⟨e, rest, hu, he⟩ | he⟩ := step_cases h
  · exact absurd hs.latch_empty hl
  · obtain ⟨rfl, hk, hl⟩ | hlog := (hs.setInbox rest).log_of_handleEvent he
    · exact .inl ⟨⟨rest, hu⟩, hk, hl⟩
    · exact .inr hlog
  · obtain rfl | hr := wait_cases he
    · exact .inr (.inl ⟨rfl, rfl⟩)
    · exact .inr (hs.log_of_resume hr)

end Sys2Proof.Machine
end

section
/-! SUPPORT. The connection and the configuration (10_state.md R27, R28). -/

namespace Sys2Proof.Machine

variable {s t : State}

theorem handleEvent_conn {e : Event} (h : handleEvent e s = .next t) :
    t.cfg = s.cfg ∧
      (t.conn = s.conn ∨ (e = .connect ∧ s.conn = .notEstablished ∧ t.conn = .connected) ∨
        (e = .close ∧ s.conn = .connected ∧ t.conn = .closed) ∨ (e = .reset ∧ t.conn = .notEstablished)) := by
  cases e with
  | command bytes =>
    obtain ⟨-, i, -, -, he⟩ := takeCommand_cases h
    have env := SameEnv.ofExec he
    exact ⟨env.cfg, .inl env.conn⟩
  | answer a =>
    obtain ⟨hcfg, hconn, -⟩ := resume_frame h
    exact ⟨hcfg, .inl hconn⟩
  | arrive | lose => cases h; exact ⟨rfl, .inl rfl⟩
  | connect => cases h; cases s.conn <;> simp [Conn.establish]
  | close => cases h; cases s.conn <;> simp [Conn.shut]
  | reset => cases h; exact ⟨rfl, .inr (.inr (.inr ⟨rfl, rfl⟩))⟩

/-- Settles O56: no work of the block touches `cfg` or `conn`, and of the events only `connect`, `close` and `reset` move
`conn`. -/
theorem onlyTheEnvironmentMovesTheConnection : Obligations.OnlyTheEnvironmentMovesTheConnection := by
  intro s t h
  obtain ⟨-, i, he⟩ | ⟨hl, ⟨e, rest, hu, he⟩ | he⟩ := step_cases h
  · have env := SameEnv.ofExec he
    exact ⟨env.cfg, .inl env.conn⟩
  · obtain ⟨hcfg, hconn⟩ := handleEvent_conn he
    refine ⟨hcfg, ?_⟩
    obtain same | ⟨rfl, hc⟩ | ⟨rfl, hc⟩ | ⟨rfl, hc⟩ := hconn
    · exact .inl same
    · exact .inr ⟨hl, rest, .inl ⟨hu, hc⟩⟩
    · exact .inr ⟨hl, rest, .inr (.inl ⟨hu, hc⟩)⟩
    · exact .inr ⟨hl, rest, .inr (.inr ⟨hu, hc⟩)⟩
  · obtain rfl | hr := wait_cases he
    · exact ⟨rfl, .inl rfl⟩
    · obtain ⟨hcfg, hconn, -⟩ := resume_frame hr
      exact ⟨hcfg, .inl hconn⟩

/-- Settles O45: each of the two is a response and a rewrite of the working registers, fixed by its operands alone. -/
theorem codecNeverSeesTheConnection : Obligations.CodecNeverSeesTheConnection := by
  intro i c s hi
  have codec : ∃ (r : Response) (f : Regs → Regs), ∀ s, exec i s = .next (respond r (s.mapRegs f)) := by
    obtain ⟨a, d, b, rfl⟩ | ⟨sl, rfl⟩ := hi
    · exact exec_encode_eq a d b
    · exact exec_decode_eq sl
  obtain ⟨r, f, he⟩ := codec
  exact ⟨respond r (s.mapRegs f), he s, he _, rfl, rfl, rfl, rfl⟩

end Sys2Proof.Machine
end

section
/-! SUPPORT. The whole machine: what a step runs, and the state after reset (10_state.md R26, R33). -/

namespace Sys2Proof.Machine

/-- Bytes that decode are run as what they decode to. -/
theorem runBytes_of_decode {port : Port} {bytes more : Bytes} {i : Instr} (hd : decode port bytes = .ok (i, more))
    (s : State) : runBytes port bytes s = exec i s := by
  simp only [runBytes, hd]

/-- An idle block takes a command. -/
theorem takeCommand_idle {s : State} (hp : s.phase = .idle) (bytes : Bytes) :
    takeCommand bytes s = runBytes .cmd bytes s := by
  simp only [takeCommand, hp]

/-- Settles O50: an idle block takes the command, the latch goes before every event, and what decodes is run. -/
theorem stepRunsTheDecodedInstruction : Obligations.StepRunsTheDecodedInstruction := by
  constructor
  · intro bytes more rest i s hl hp hu hd
    calc step s = takeCommand bytes { s with inbox := rest } := step_upcoming hl hu
      _ = runBytes .cmd bytes { s with inbox := rest } := takeCommand_idle (s := { s with inbox := rest }) hp bytes
      _ = exec i { s with inbox := rest } := runBytes_of_decode hd _
  · intro port bytes more i s hl hd
    rw [step_latch hl, runBytes_of_decode hd]

/-- With nothing to come and no call outstanding, the block after reset waits. -/
theorem step_reset : step State.reset = .next State.reset := rfl

/-- Settles O54: each part is read off the reset values, and the step waits. -/
theorem resetState : Obligations.ResetState := ⟨rfl, rfl, rfl, rfl, rfl, rfl, rfl, step_reset⟩

/-- Settles O59: the channels and the inbound sides are empty, the parameters are legal and the block is idle. -/
theorem invariantAtReset : Obligations.InvariantAtReset where
  cfg_legal := rfl
  inbound_wf := rfl
  latch_empty := rfl
  calls_legal := nofun
  rsps_legal := nofun
  phase_holds := trivial
  log_kept := List.nil_suffix

end Sys2Proof.Machine
end

section
/-! SUPPORT. Transport answers: reads consume (20_memory.md R58), and a connection that is not up answers every
call with ConnectionError (R53). -/

namespace Sys2Proof.Machine

/-! ### Reads consume -/

/-- A read leaves every other inbound side alone (R58). -/
theorem waiting_consume_other {s : State} {ep e : ReadEndpoint} (n : Nat) (h : e ≠ ep) :
    (s.consume ep n).inbound.waiting e = s.inbound.waiting e := Memory.waiting_put_other _ h

/-- Settles O48: the step consumes the bytes from their side, and what the operation then does with them touches no side. -/
theorem readsConsume : Obligations.ReadsConsume := by
  intro p ep max n rest s hl hc hw hp hi hm
  have kept := (SameEnv.ofDeliver p ep ((s.inbound.waiting ep).take n)
    (s := { s with inbox := rest }.consume ep n)).inbound
  refine ⟨_, step_read_ok hl hc hp hi hm, ?_, fun e he => ?_, ?_⟩ <;> rw [kept]
  · exact waiting_consume_same ep n hw
  · exact waiting_consume_other n he
  · exact consume_inbound_wf ep n hw

/-! ### A connection that is not up -/

/-- Whatever the transport says, the answer on a connection that is not up is ConnectionError (R53). -/
theorem under_not_connected {c : Conn} (h : c ≠ .connected) (a : Answer) : a.under c = .connectionError := by
  cases c with
  | connected => exact absurd rfl h
  | notEstablished | closed => rfl

/-- Any answer to a pending call on such a connection ends the operation (decision D31). -/
theorem resume_not_connected {s : State} (hc : s.conn ≠ .connected) (hp : s.phase ≠ .idle) (a : Answer) :
    resume a s = .next (raiseError .connectionError s) := by
  unfold resume
  rw [under_not_connected hc]
  split
  next h => exact absurd h hp
  next => rfl
  next => rfl

/-- On such a connection a block that waits answers its own call (log entry 6). -/
theorem wait_not_connected {s : State} (hc : s.conn ≠ .connected) : wait s = resume .connectionError s := by
  unfold wait
  split
  next h => exact absurd h hc
  next => rfl
  next => rfl

/-- Settles O44: an answer and no answer both come down to ConnectionError at the suspension point. -/
theorem noConnectionMeansConnectionError : Obligations.NoConnectionMeansConnectionError := by
  intro s hl hc hp
  constructor
  · intro a rest hu
    rw [step_upcoming hl hu]
    exact resume_not_connected (s := { s with inbox := rest }) hc hp a
  · intro hu
    rw [step_wait hl hu, wait_not_connected hc]
    exact resume_not_connected hc hp _

end Sys2Proof.Machine
end

section
/-! SUPPORT. The bits of the words (30_encoding.md R82 to R84; 00_scope.md R10): each word as a number, its fields read off
it, and what the decoders of `word1`, `word2` and of a header make of it. -/

namespace Sys2Proof

/-! ### Words as numbers -/

/-- Bits side by side stand for the upper ones moved up, plus the lower ones. -/
theorem append_toNat {m n : Nat} (x : BitVec m) (y : BitVec n) : (x ++ y).toNat = x.toNat * 2 ^ n + y.toNat := by
  rw [BitVec.toNat_append, ← Nat.shiftLeft_add_eq_or_of_lt y.isLt, Nat.shiftLeft_eq]

/-- What a field of a word holds, said of the word's number. -/
theorem extractLsb'_eq_iff {m n start : Nat} {w : BitVec m} {v : BitVec n} :
    w.extractLsb' start n = v ↔ w.toNat / 2 ^ start % 2 ^ n = v.toNat := by
  rw [← BitVec.toNat_inj, BitVec.extractLsb'_toNat, Nat.shiftRight_eq_div_pow]

/-- EXTENDED, bit 2 of a word, said of the word's number. -/
theorem getLsbD_two (w : Word) : w.getLsbD 2 = decide (w.toNat / 4 % 2 = 1) := by
  rw [BitVec.getLsbD, Nat.testBit_eq_decide_div_mod_eq]

theorem unLE32_toNat (b0 b1 b2 b3 : Byte) :
    (unLE32 b0 b1 b2 b3).toNat = b0.toNat + 2 ^ 8 * b1.toNat + 2 ^ 16 * b2.toNat + 2 ^ 24 * b3.toNat := by
  simp only [unLE32, append_toNat]
  omega

theorem word1StdBits_toNat (a : BitVec 11) (x : BitVec 18) (y t : BitVec 1) :
    (word1StdBits a x y t).toNat = a.toNat * 2 ^ 21 + x.toNat * 8 + y.toNat * 2 + t.toNat := by
  simp only [word1StdBits, append_toNat, BitVec.toNat_ofNat]
  omega

theorem word1ExtBits_toNat (a : BitVec 29) (y t : BitVec 1) :
    (word1ExtBits a y t).toNat = a.toNat * 8 + 4 + y.toNat * 2 + t.toNat := by
  simp only [word1ExtBits, append_toNat, BitVec.toNat_ofNat]
  omega

theorem word2Bits_toNat (c : BitVec 16) (x : BitVec 4) (b : Byte) (l : BitVec 4) :
    (word2Bits c x b l).toNat = c.toNat * 65536 + x.toNat * 4096 + b.toNat * 16 + l.toNat := by
  simp only [word2Bits, append_toNat]
  omega

/-! ### `word1` (R82, R83, R97) -/

@[simp] theorem decodeWord1Rx_word1StdBits (a : BitVec 11) (x : BitVec 18) (y t : BitVec 1) :
    decodeWord1Rx (word1StdBits a x y t) = .canslotW1Std a x y t := by
  have hw := word1StdBits_toNat a x y t
  have form : (word1StdBits a x y t).getLsbD 2 = false := by
    rw [getLsbD_two, decide_eq_false_iff_not]
    omega
  simp only [decodeWord1Rx, form, Bool.false_eq_true, if_false, Instr.canslotW1Std.injEq, extractLsb'_eq_iff]
  omega

@[simp] theorem decodeWord1Rx_word1ExtBits (a : BitVec 29) (y t : BitVec 1) :
    decodeWord1Rx (word1ExtBits a y t) = .canslotW1Ext a y t := by
  have hw := word1ExtBits_toNat a y t
  have form : (word1ExtBits a y t).getLsbD 2 = true := by
    rw [getLsbD_two, decide_eq_true_eq]
    omega
  simp only [decodeWord1Rx, form, if_true, Instr.canslotW1Ext.injEq, extractLsb'_eq_iff]
  omega

@[simp] theorem decodeWord1Tx_word1StdBits (a : BitVec 11) :
    decodeWord1Tx (word1StdBits a 0 0 1) = .ok (.canslotW1StdEnc a) := by
  have hw := word1StdBits_toNat a 0 0 1
  have image : (word1StdBits a 0 0 1).extractLsb' 0 21 = 1 := extractLsb'_eq_iff.2 (by simp at hw ⊢; omega)
  have ident : (word1StdBits a 0 0 1).extractLsb' 21 11 = a := extractLsb'_eq_iff.2 (by simp at hw ⊢; omega)
  rw [decodeWord1Tx, if_pos image, ident]

@[simp] theorem decodeWord1Tx_word1ExtBits (a : BitVec 29) :
    decodeWord1Tx (word1ExtBits a 0 1) = .ok (.canslotW1ExtEnc a) := by
  have hw := word1ExtBits_toNat a 0 1
  have notStd : (word1ExtBits a 0 1).extractLsb' 0 21 ≠ 1 := mt extractLsb'_eq_iff.1 (by simp at hw ⊢; omega)
  have image : (word1ExtBits a 0 1).extractLsb' 0 3 = 5 := extractLsb'_eq_iff.2 (by simp at hw ⊢; omega)
  have ident : (word1ExtBits a 0 1).extractLsb' 3 29 = a := extractLsb'_eq_iff.2 (by simp at hw ⊢; omega)
  rw [decodeWord1Tx, if_neg notStd, if_pos image, ident]

/-! ### `word2` (R84, R97, R98) -/

/-- The decode case of `word2` turns on LENGTH alone. -/
theorem decodeWord2Rx_word2Bits (c : BitVec 16) (x : BitVec 4) (b : Byte) (l : BitVec 4) :
    decodeWord2Rx (word2Bits c x b l) =
      if l.extractLsb' 3 1 = 0 then .canslotW2Len0to7 c x b (l.extractLsb' 0 3)
      else if l = 8 then .canslotW2Len8 c x b
      else if l = 9 then .canslotW2Illegal9 c x b
      else if l.extractLsb' 1 3 = 5 then .canslotW2Illegal10to11 c x b (l.extractLsb' 0 1)
      else .canslotW2Illegal12to15 c x b (l.extractLsb' 0 2) := by
  have hw := word2Bits_toNat c x b l
  have counter : (word2Bits c x b l).extractLsb' 16 16 = c := extractLsb'_eq_iff.2 (by omega)
  have ignored : (word2Bits c x b l).extractLsb' 12 4 = x := extractLsb'_eq_iff.2 (by omega)
  have bus : (word2Bits c x b l).extractLsb' 4 8 = b := extractLsb'_eq_iff.2 (by omega)
  have length : (word2Bits c x b l).extractLsb' 0 4 = l := extractLsb'_eq_iff.2 (by omega)
  have inLength : ∀ i n, i + n ≤ 4 → (word2Bits c x b l).extractLsb' i n = l.extractLsb' i n := fun i n h => by
    rw [← BitVec.extractLsb'_extractLsb'_of_le h, length]
  simp only [decodeWord2Rx, counter, ignored, bus, length, inLength 3 1, inLength 0 3, inLength 1 3, inLength 0 1,
    inLength 0 2, Nat.reduceAdd, Nat.reduceLeDiff]

@[simp] theorem decodeWord2Rx_len0to7 (c : BitVec 16) (x : BitVec 4) (b : Byte) (l : BitVec 3) :
    decodeWord2Rx (word2Bits c x b (0#1 ++ l)) = .canslotW2Len0to7 c x b l := by
  have upper : ∀ l : BitVec 3, (0#1 ++ l).extractLsb' 3 1 = 0 := by decide
  have lower : ∀ l : BitVec 3, (0#1 ++ l).extractLsb' 0 3 = l := by decide
  rw [decodeWord2Rx_word2Bits, if_pos (upper l), lower]

@[simp] theorem decodeWord2Rx_len8 (c : BitVec 16) (x : BitVec 4) (b : Byte) :
    decodeWord2Rx (word2Bits c x b 8) = .canslotW2Len8 c x b := decodeWord2Rx_word2Bits c x b 8

@[simp] theorem decodeWord2Rx_illegal9 (c : BitVec 16) (x : BitVec 4) (b : Byte) :
    decodeWord2Rx (word2Bits c x b 9) = .canslotW2Illegal9 c x b := decodeWord2Rx_word2Bits c x b 9

@[simp] theorem decodeWord2Rx_illegal10to11 (c : BitVec 16) (x : BitVec 4) (b : Byte) (l : BitVec 1) :
    decodeWord2Rx (word2Bits c x b (5#3 ++ l)) = .canslotW2Illegal10to11 c x b l := by
  have others : ∀ l : BitVec 1, (5#3 ++ l).extractLsb' 3 1 ≠ 0 ∧ 5#3 ++ l ≠ 8 ∧ 5#3 ++ l ≠ 9 := by decide
  have fields : ∀ l : BitVec 1, (5#3 ++ l).extractLsb' 1 3 = 5 ∧ (5#3 ++ l).extractLsb' 0 1 = l := by decide
  obtain ⟨legal, eight, nine⟩ := others l
  obtain ⟨five, low⟩ := fields l
  rw [decodeWord2Rx_word2Bits, if_neg legal, if_neg eight, if_neg nine, if_pos five, low]

@[simp] theorem decodeWord2Rx_illegal12to15 (c : BitVec 16) (x : BitVec 4) (b : Byte) (l : BitVec 2) :
    decodeWord2Rx (word2Bits c x b (3#2 ++ l)) = .canslotW2Illegal12to15 c x b l := by
  have others : ∀ l : BitVec 2, (3#2 ++ l).extractLsb' 3 1 ≠ 0 ∧ 3#2 ++ l ≠ (8 : BitVec 4) ∧ 3#2 ++ l ≠ (9 : BitVec 4) ∧
      (3#2 ++ l).extractLsb' 1 3 ≠ 5 := by decide
  have low : ∀ l : BitVec 2, (3#2 ++ l).extractLsb' 0 2 = l := by decide
  obtain ⟨legal, eight, nine, five⟩ := others l
  rw [decodeWord2Rx_word2Bits, if_neg legal, if_neg eight, if_neg nine, if_neg five, low]

/-- ENCODE's `word2` has a LENGTH of at most 8 and zeros above BUS (R122). -/
theorem decodeWord2Tx_word2Bits (b : Byte) {l : BitVec 4} (hl : l.toNat ≤ 8) :
    decodeWord2Tx (word2Bits 0 0 b l) = .ok (.canslotW2Enc b l) := by
  have hw := word2Bits_toNat 0 0 b l
  have zeros : (word2Bits 0 0 b l).extractLsb' 12 20 = 0 := extractLsb'_eq_iff.2 (by simp at hw ⊢; omega)
  have bus : (word2Bits 0 0 b l).extractLsb' 4 8 = b := extractLsb'_eq_iff.2 (by simp at hw ⊢; omega)
  have length : (word2Bits 0 0 b l).extractLsb' 0 4 = l := extractLsb'_eq_iff.2 (by simp at hw ⊢; omega)
  rw [decodeWord2Tx, bus, length, if_pos ⟨zeros, hl⟩]

/-! ### A kline header (R87, R97, R99) -/

theorem decodeKrxHdr_legal (h : Byte) {n : Byte} (hn : 2 ≤ n.toNat) : decodeKrxHdr h n = .krxmsgHdrLegal h n := by
  have legal : n.extractLsb' 1 7 ≠ 0 := mt extractLsb'_eq_iff.1 (by simp; omega)
  rw [decodeKrxHdr, if_neg legal]

@[simp] theorem decodeKrxHdr_illegal (h : Byte) (n : BitVec 1) :
    decodeKrxHdr h (n.setWidth 8) = .krxmsgHdrIllegal h n := by
  have upper : ∀ n : BitVec 1, (n.setWidth 8).extractLsb' 1 7 = 0 := by decide
  have low : ∀ n : BitVec 1, (n.setWidth 8).extractLsb' 0 1 = n := by decide
  rw [decodeKrxHdr, if_pos (upper n), low]

end Sys2Proof
end

section
/-! SUPPORT. Decoding undoes encoding, piece by piece (30_encoding.md R80 to R90; log entry 8): each piece of the decoder reads
back what the encoder lays and leaves the bytes behind it, and so does the decoder at every port. -/

namespace Sys2Proof

theorem bind_of_ok {α β : Type} {x : Except Reject α} {a : α} (f : α → Except Reject β) (h : x = .ok a) :
    (x >>= f) = f a := by
  rw [h]
  rfl

/-! ### Words, sequences and counts -/

theorem takeWord_le32 (w : Word) (rest : Bytes) : takeWord (le32 w ++ rest) = .ok (w, rest) := by
  have bytes : unLE32 (w.extractLsb' 0 8) (w.extractLsb' 8 8) (w.extractLsb' 16 8) (w.extractLsb' 24 8) = w := by
    apply BitVec.eq_of_toNat_eq
    simp only [unLE32_toNat, BitVec.extractLsb'_toNat]
    omega
  simp only [le32, List.cons_append, List.nil_append, takeWord, bytes]

theorem takeAddress_encodeAddress (a : Address) (rest : Bytes) :
    takeAddress (encodeAddress a ++ rest) = .ok (a, rest) := by
  have inRange : (a.setWidth 32).toNat < 2 ^ 29 := by
    rw [BitVec.toNat_setWidth_of_le (by decide)]
    exact a.isLt
  have back : (a.setWidth 32).setWidth 29 = a := by simp
  rw [takeAddress, encodeAddress, bind_of_ok _ (takeWord_le32 _ _)]
  simp only [inRange, if_true, back]

theorem takeSeq_encodeSeq (bs rest : Bytes) : takeSeq (encodeSeq bs ++ rest) = .ok (bs, rest) := by
  induction bs with
  | nil => cases rest <;> rfl
  | cons b bs ih => exact bind_of_ok _ ih

theorem takeCount_encodeCount (n : Nat) (rest : Bytes) : takeCount (encodeCount n ++ rest) = .ok (n, rest) := by
  induction n with
  | zero => rfl
  | succ n ih => exact bind_of_ok _ ih

theorem takeFlag_encodeFlag (cs : Bool) (rest : Bytes) : takeFlag (encodeFlag cs :: rest) = .ok (cs, rest) := by
  cases cs <;> rfl

theorem takeNibble_setWidth (n : BitVec 4) (rest : Bytes) : takeNibble (n.setWidth 8 :: rest) = .ok (n, rest) := by
  have upper : ∀ n : BitVec 4, (n.setWidth 8).extractLsb' 4 4 = 0 := by decide
  have low : ∀ n : BitVec 4, (n.setWidth 8).extractLsb' 0 4 = n := by decide
  exact (if_pos (upper n)).trans (by rw [low])

/-! ### Frames and slots -/

theorem takeTxFrame_encodeTxFrame (f : TxFrame) (rest : Bytes) :
    takeTxFrame (encodeTxFrame f ++ rest) = .ok (f, rest) := by
  simp only [takeTxFrame, encodeTxFrame, List.append_assoc]
  rw [bind_of_ok _ (takeAddress_encodeAddress _ _)]
  exact bind_of_ok _ (takeSeq_encodeSeq _ _)

theorem takeCanFrame_encodeCanFrame (f : CanFrame) (rest : Bytes) :
    takeCanFrame (encodeCanFrame f ++ rest) = .ok (f, rest) := by
  have counter : f.counter.extractLsb' 8 8 ++ f.counter.extractLsb' 0 8 = f.counter := by
    apply BitVec.eq_of_toNat_eq
    simp only [append_toNat, BitVec.extractLsb'_toNat]
    omega
  simp only [takeCanFrame, encodeCanFrame, List.append_assoc]
  rw [bind_of_ok _ (takeAddress_encodeAddress _ _)]
  refine (bind_of_ok _ (takeSeq_encodeSeq _ _)).trans ?_
  simp only [counter]

theorem takeSlot_toList (sl : Slot) (rest : Bytes) : takeSlot (sl.toList ++ rest) = .ok (sl, rest) := by
  rw [← Vector.ofFn_getElem (xs := sl)]
  rfl

/-- A marked sequence of items: each item behind a 1, and a 0 at the end. -/
structure LaysMarked {α : Type} (lay : α → Bytes) (layAll : List α → Bytes) : Prop where
  nil : layAll [] = [0]
  cons : ∀ a as, layAll (a :: as) = 1 :: (lay a ++ layAll as)

theorem encodeTxFrames_laysMarked : LaysMarked encodeTxFrame encodeTxFrames := ⟨rfl, fun _ _ => rfl⟩

theorem encodeCanFrames_laysMarked : LaysMarked encodeCanFrame encodeCanFrames := ⟨rfl, fun _ _ => rfl⟩

namespace LaysMarked

variable {α : Type} {lay : α → Bytes} {layAll : List α → Bytes}

/-- There are more bytes than items, so the number of bytes is a bound for the number of markers. -/
theorem length_lt (h : LaysMarked lay layAll) (as : List α) : as.length < (layAll as).length := by
  induction as with
  | nil => simp [h.nil]
  | cons a as ih =>
    simp only [h.cons, List.length_cons, List.length_append]
    omega

theorem takeMany_of_lt (h : LaysMarked lay layAll) {item : Bytes → Except Reject (α × Bytes)}
    (hitem : ∀ a rest, item (lay a ++ rest) = .ok (a, rest)) {as : List α} {fuel : Nat} (hfuel : as.length < fuel)
    (rest : Bytes) : takeMany item fuel (layAll as ++ rest) = .ok (as, rest) := by
  induction as generalizing fuel with
  | nil =>
    obtain ⟨fuel, rfl⟩ := Nat.exists_eq_add_of_lt hfuel
    rw [h.nil]
    rfl
  | cons a as ih =>
    obtain ⟨fuel, rfl⟩ := Nat.exists_eq_add_of_lt hfuel
    rw [h.cons, List.cons_append, List.append_assoc]
    refine (bind_of_ok _ (hitem a _)).trans ?_
    exact bind_of_ok _ (ih (by simp only [List.length_cons]; omega))

theorem takeMany_length (h : LaysMarked lay layAll) {item : Bytes → Except Reject (α × Bytes)}
    (hitem : ∀ a rest, item (lay a ++ rest) = .ok (a, rest)) (as : List α) (rest : Bytes) :
    takeMany item (layAll as ++ rest).length (layAll as ++ rest) = .ok (as, rest) :=
  h.takeMany_of_lt hitem (by rw [List.length_append]; exact Nat.lt_add_right _ (h.length_lt as)) rest

end LaysMarked

/-! ### The ports -/

theorem decodeResult_encodeResult (v : Result) (rest : Bytes) :
    decodeResult (encodeResult v ++ rest) = .ok (v, rest) := by
  cases v with
  | nothing => rfl
  | slot sl => exact bind_of_ok _ (takeSlot_toList sl rest)
  | frame f => exact bind_of_ok _ (takeCanFrame_encodeCanFrame f rest)
  | frames fs dropped =>
    rw [encodeResult, List.cons_append, List.append_assoc]
    refine (bind_of_ok _ (encodeCanFrames_laysMarked.takeMany_length takeCanFrame_encodeCanFrame fs _)).trans ?_
    exact bind_of_ok _ (takeCount_encodeCount dropped rest)
  | message m => exact bind_of_ok _ (takeSeq_encodeSeq m rest)

theorem decode_rsp (r : Response) (rest : Bytes) :
    decode .rsp (encodeResponse r ++ rest) = .ok (.rsp r, rest) := by
  cases r with
  | ok v => exact (bind_of_ok _ (takeNibble_setWidth 0 _)).trans (bind_of_ok _ (decodeResult_encodeResult v rest))
  | error k => cases k <;> rfl

theorem decode_cmd_encode (a : Address) (d : Bytes) (b : Byte) (rest : Bytes) :
    decode .cmd (0x01 :: (encodeAddress a ++ [b] ++ encodeSeq d) ++ rest) = .ok (.encode a d b, rest) :=
  bind_of_ok _ (takeTxFrame_encodeTxFrame ⟨a, d, b⟩ rest)

theorem decode_cmd_decode (sl : Slot) (rest : Bytes) :
    decode .cmd (0x02 :: sl.toList ++ rest) = .ok (.decode sl, rest) :=
  bind_of_ok _ (takeSlot_toList sl rest)

theorem decode_cmd_sendmany (fs : List TxFrame) (rest : Bytes) :
    decode .cmd (0x03 :: encodeTxFrames fs ++ rest) = .ok (.sendmany fs, rest) :=
  bind_of_ok _ (encodeTxFrames_laysMarked.takeMany_length takeTxFrame_encodeTxFrame fs rest)

theorem decode_cmd_ksend (m : Bytes) (b : Byte) (cs : Bool) (rest : Bytes) :
    decode .cmd (0x05 :: b :: encodeFlag cs :: encodeSeq m ++ rest) = .ok (.ksend m b cs, rest) :=
  (bind_of_ok _ (takeFlag_encodeFlag cs _)).trans (bind_of_ok _ (takeSeq_encodeSeq m rest))

theorem decode_word1Rx {w : Word} {i : Instr} (h : decodeWord1Rx w = i) (rest : Bytes) :
    decode .word1Rx (le32 w ++ rest) = .ok (i, rest) := by
  rw [← h]
  exact bind_of_ok _ (takeWord_le32 w rest)

theorem decode_word2Rx {w : Word} {i : Instr} (h : decodeWord2Rx w = i) (rest : Bytes) :
    decode .word2Rx (le32 w ++ rest) = .ok (i, rest) := by
  rw [← h]
  exact bind_of_ok _ (takeWord_le32 w rest)

theorem decode_word1Tx {w : Word} {i : Instr} (h : decodeWord1Tx w = .ok i) (rest : Bytes) :
    decode .word1Tx (le32 w ++ rest) = .ok (i, rest) :=
  (bind_of_ok _ (takeWord_le32 w rest)).trans (bind_of_ok _ h)

theorem decode_word2Tx {w : Word} {i : Instr} (h : decodeWord2Tx w = .ok i) (rest : Bytes) :
    decode .word2Tx (le32 w ++ rest) = .ok (i, rest) :=
  (bind_of_ok _ (takeWord_le32 w rest)).trans (bind_of_ok _ h)

theorem decode_kchunk (b : Byte) {chunk : Bytes} (h : chunkLegal chunk = true) :
    decode .kchunk (b :: chunk) = .ok (.kchunk b chunk, []) :=
  bind_of_ok _ (if_pos h)

theorem decode_krxHdr {h n : Byte} {i : Instr} (hi : decodeKrxHdr h n = i) (rest : Bytes) :
    decode .krxHdr (h :: n :: rest) = .ok (i, rest) := by
  rw [← hi]
  rfl

/-- Settles O52: row by row, each from the lemma of its port. -/
theorem decodeOfEncodeIsTheInstruction : Obligations.DecodeOfEncodeIsTheInstruction := by
  intro i port bytes hwf he
  -- The rows without an encoding go here; the rest have their port and bytes named.
  cases i <;> cases he
  case encode a d b => simpa using decode_cmd_encode a d b []
  case decode sl => simpa using decode_cmd_decode sl []
  case sendmany fs => simpa using decode_cmd_sendmany fs []
  case ksend m b cs => simpa using decode_cmd_ksend m b cs []
  case canslotW1Std a x y t => exact decode_word1Rx (decodeWord1Rx_word1StdBits a x y t) []
  case canslotW1Ext a y t => exact decode_word1Rx (decodeWord1Rx_word1ExtBits a y t) []
  case canslotW1StdEnc a => exact decode_word1Tx (decodeWord1Tx_word1StdBits a) []
  case canslotW1ExtEnc a => exact decode_word1Tx (decodeWord1Tx_word1ExtBits a) []
  case canslotW2Len0to7 c x b l => exact decode_word2Rx (decodeWord2Rx_len0to7 c x b l) []
  case canslotW2Len8 c x b => exact decode_word2Rx (decodeWord2Rx_len8 c x b) []
  case canslotW2Illegal9 c x b => exact decode_word2Rx (decodeWord2Rx_illegal9 c x b) []
  case canslotW2Illegal10to11 c x b l => exact decode_word2Rx (decodeWord2Rx_illegal10to11 c x b l) []
  case canslotW2Illegal12to15 c x b l => exact decode_word2Rx (decodeWord2Rx_illegal12to15 c x b l) []
  case canslotW2Enc b l => exact decode_word2Tx (decodeWord2Tx_word2Bits b (of_decide_eq_true hwf)) []
  case kchunk b chunk => exact decode_kchunk b hwf
  case krxmsgHdrLegal h n => exact decode_krxHdr (decodeKrxHdr_legal h (of_decide_eq_true hwf)) []
  case krxmsgHdrIllegal h n => exact decode_krxHdr (decodeKrxHdr_illegal h n) []
  case rsp r => simpa using decode_rsp r []
  -- CANRECV, KRECV and the reserved operations have at most one operand byte.
  all_goals rfl

end Sys2Proof
end

section
/-! SUPPORT. What the host's command port refuses and what the response port and bare words stand for (30_encoding.md R89, R90,
R102; 60_exceptions.md R226, R246). -/

namespace Sys2Proof.Machine

/-- Settles O53: the operation map reads the host's rows alone. -/
theorem hostCannotIssueMicroOperations : Obligations.HostCannotIssueMicroOperations :=
  fun bytes more i h => decodeCmd_readsHostRows bytes i more h

/-- The reserved rows and their `op` values (30_encoding.md R102, decision D3). -/
def reservedRows : List (Instr × BitVec 4) :=
  [(.reservedOp0, 0x0), (.reservedOp7, 0x7), (.reservedOp8, 0x8), (.reservedOp9, 0x9), (.reservedOpA, 0xA),
    (.reservedOpB, 0xB), (.reservedOpC, 0xC), (.reservedOpD, 0xD), (.reservedOpE, 0xE), (.reservedOpF, 0xF)]

/-- A reserved `op` names a row of its own that reads no operand, and that row is refused in every state. -/
theorem reservedRows_decode_and_refuse {i : Instr} {op : BitVec 4} (h : (i, op) ∈ reservedRows) :
    (∀ more, decode .cmd (op.setWidth 8 :: more) = .ok (i, more)) ∧ ∀ s, exec i s = .refused (.reservedOp op) := by
  simp only [reservedRows, List.mem_cons, Prod.mk.injEq, List.not_mem_nil, or_false] at h
  rcases h with ⟨rfl, rfl⟩ | ⟨rfl, rfl⟩ | ⟨rfl, rfl⟩ | ⟨rfl, rfl⟩ | ⟨rfl, rfl⟩ | ⟨rfl, rfl⟩ | ⟨rfl, rfl⟩ | ⟨rfl, rfl⟩ |
    ⟨rfl, rfl⟩ | ⟨rfl, rfl⟩
  all_goals exact ⟨fun _ => rfl, fun _ => rfl⟩

/-- Settles O47: an idle block runs the row the selector names, and no state gives that row a meaning. -/
theorem reservedOpsAreRefused : Obligations.ReservedOpsAreRefused := by
  intro i op s h
  obtain ⟨decodes, refuses⟩ := reservedRows_decode_and_refuse h
  refine ⟨refuses s, fun more rest hl hp hi => ?_⟩
  rw [step_command hl hp hi (decodes more)]
  exact refuses _

/-- Settles O49: RSP is `respond`, and STATUS a table of seven numbers. -/
theorem responseEndsTheOperation : Obligations.ResponseEndsTheOperation :=
  ⟨fun _ _ => rfl, fun _ => rfl, rfl⟩

/-- Settles O51: the decoder run on each of the twelve. -/
theorem specWordsDecode : Obligations.SpecWordsDecode :=
  ⟨rfl, rfl, rfl, rfl, rfl, rfl, rfl, rfl, rfl, rfl, rfl, rfl⟩

end Sys2Proof.Machine
end

section
/-! SUPPORT. The rows of a slot's words (30_encoding.md R82 to R84, R98; 40_frame_codec.md R126 to R128): each from its word's
number. -/

namespace Sys2Proof.Machine

theorem eq_ofNat_of_toNat_eq {n k : Nat} {w : BitVec n} (h : w.toNat = k) : w = BitVec.ofNat n k := by
  rw [← h, BitVec.ofNat_toNat, BitVec.setWidth_eq]

/-- Settles O11: both rows write the word of their operands, the form and the identifier. -/
theorem word1CasesTakeTheIdentifier : Obligations.Word1CasesTakeTheIdentifier := by
  constructor
  · intro a x y t s
    have word := eq_ofNat_of_toNat_eq (word1StdBits_toNat a x y t)
    have ident : a.setWidth 29 = BitVec.ofNat 29 a.toNat := (BitVec.ofNat_toNat _ _).symm
    rw [← word, ← ident]
    rfl
  · intro a y t s
    rw [← eq_ofNat_of_toNat_eq (word1ExtBits_toNat a y t)]
    rfl

/-- A legal row of `word2`, with its word, LENGTH and payload in plain arithmetic. -/
theorem readLegalWord2_eq (c : BitVec 16) (x : BitVec 4) (b : Byte) {l : BitVec 4} {n : Nat} (hn : l.toNat = n) (r : Regs) :
    readLegalWord2 c x b l r = { r with
      w2 := BitVec.ofNat 32 (c.toNat * 65536 + x.toNat * 4096 + b.toNat * 16 + n)
      len := BitVec.ofNat 4 n
      data := (r.slot.toList.drop 8).take n
      busr := b
      ctr := c } := by
  subst hn
  rw [← eq_ofNat_of_toNat_eq (word2Bits_toNat c x b l), ← eq_ofNat_of_toNat_eq (w := l) rfl]
  rfl

/-- An illegal row of `word2`, with its word and LENGTH in plain arithmetic. -/
theorem refuseLength_eq (c : BitVec 16) (x : BitVec 4) (b : Byte) {l : BitVec 4} {n : Nat} (hn : l.toNat = n) (s : State) :
    refuseLength c x b l s = { s with
      phase := .idle
      rsps := s.rsps ++ [.error .formatError]
      regs := { s.regs with
        w2 := BitVec.ofNat 32 (c.toNat * 65536 + x.toNat * 4096 + b.toNat * 16 + n)
        len := BitVec.ofNat 4 n } } := by
  subst hn
  rw [← eq_ofNat_of_toNat_eq (word2Bits_toNat c x b l), ← eq_ofNat_of_toNat_eq (w := l) rfl]
  rfl

/-- Settles O12: LENGTH is below 8 in the first row and 8, all of the slot's payload, in the second. -/
theorem word2LegalCasesTakeTheFields : Obligations.Word2LegalCasesTakeTheFields := by
  constructor
  · intro c x b l s
    have length : (0#1 ++ l).toNat = l.toNat := (append_toNat 0#1 l).trans (Nat.zero_add _)
    exact congrArg (fun r => Host.Outcome.next { s with regs := r }) (readLegalWord2_eq c x b length s.regs)
  · intro c x b s
    have whole : (s.regs.slot.toList.drop 8).take 8 = s.regs.slot.toList.drop 8 := List.take_of_length_le (by simp)
    rw [← whole]
    exact congrArg (fun r => Host.Outcome.next { s with regs := r }) (readLegalWord2_eq c x b (l := 8) rfl s.regs)

/-- Settles O13: each row refuses its LENGTH. -/
theorem word2IllegalCasesRaiseFormatError : Obligations.Word2IllegalCasesRaiseFormatError := by
  intro i c x b n s h
  obtain ⟨rfl, rfl⟩ | ⟨l, rfl, rfl⟩ | ⟨l, rfl, rfl⟩ := h
  · exact congrArg _ (refuseLength_eq c x b rfl s)
  · have length : (5#3 ++ l).toNat = 10 + l.toNat := append_toNat 5#3 l
    exact congrArg _ (refuseLength_eq c x b length s)
  · have length : (3#2 ++ l).toNat = 12 + l.toNat := append_toNat 3#2 l
    exact congrArg _ (refuseLength_eq c x b length s)

end Sys2Proof.Machine
end

section
/-! SUPPORT. DECODE's fields in plain arithmetic (30_encoding.md R84, R92, R98, R100; 40_frame_codec.md R125 to R128): what the
model reads from a slot's words is what Spec reads from its bytes. -/

namespace Sys2Proof.Machine

/-! ### The words of a slot -/

theorem slot_toList (sl : Slot) :
    sl.toList = [sl[0], sl[1], sl[2], sl[3], sl[4], sl[5], sl[6], sl[7], sl[8], sl[9], sl[10], sl[11], sl[12], sl[13], sl[14],
      sl[15]] := by
  conv_lhs => rw [← Vector.ofFn_getElem (xs := sl)]
  rfl

theorem readW1_toList (sl : Slot) : Spec.readW1 sl.toList = (slotWord1 sl).toNat := by
  simp only [Spec.readW1, slot_toList, List.take_succ_cons, List.take_zero, Spec.leNat, slotWord1, unLE32_toNat]
  omega

theorem readW2_toList (sl : Slot) : Spec.readW2 sl.toList = (slotWord2 sl).toNat := by
  simp only [Spec.readW2, slot_toList, List.drop_succ_cons, List.drop_zero, List.take_succ_cons, List.take_zero, Spec.leNat,
    slotWord2, unLE32_toNat]
  omega

theorem slotWord1_eq (sl : Slot) : slotWord1 sl = BitVec.ofNat 32 (Spec.readW1 sl.toList) :=
  eq_ofNat_of_toNat_eq (readW1_toList sl).symm

theorem slotWord2_eq (sl : Slot) : slotWord2 sl = BitVec.ofNat 32 (Spec.readW2 sl.toList) :=
  eq_ofNat_of_toNat_eq (readW2_toList sl).symm

/-! ### Their fields -/

theorem setWidth_ushiftRight (w : Word) (k n : Nat) : (w >>> k).setWidth n = BitVec.ofNat n (w.toNat / 2 ^ k) := by
  rw [← Nat.shiftRight_eq_div_pow, ← BitVec.toNat_ushiftRight, BitVec.ofNat_toNat]

/-- A mask of the low bits before they are taken changes nothing. -/
theorem setWidth_and_mask (w : Word) {k : Nat} (hk : k ≤ 32) :
    (w &&& BitVec.ofNat 32 (2 ^ k - 1)).setWidth k = BitVec.ofNat k w.toNat := by
  have mask : 2 ^ k - 1 < 2 ^ 32 :=
    Nat.lt_of_lt_of_le (Nat.sub_one_lt (Nat.two_pow_pos k).ne') (Nat.pow_le_pow_right (by decide) hk)
  apply BitVec.eq_of_toNat_eq
  rw [BitVec.toNat_setWidth, BitVec.toNat_and, BitVec.toNat_ofNat, BitVec.toNat_ofNat, Nat.mod_eq_of_lt mask,
    Nat.and_two_pow_sub_one_eq_mod, Nat.mod_mod]

theorem wordExtended_slotWord1 (sl : Slot) : wordExtended (slotWord1 sl) = Spec.isExt sl.toList := by
  rw [wordExtended, getLsbD_two, Spec.isExt, readW1_toList]

theorem wordAddress_slotWord1 (sl : Slot) : wordAddress (slotWord1 sl) = BitVec.ofNat 29 (Spec.addrField sl.toList) := by
  rw [wordAddress, wordExtended_slotWord1, setWidth_ushiftRight, setWidth_ushiftRight, Spec.addrField, readW1_toList]
  cases Spec.isExt sl.toList <;> rfl

theorem wordLength_slotWord2_toNat (sl : Slot) : (wordLength (slotWord2 sl)).toNat = Spec.lenField sl.toList := by
  have low : wordLength (slotWord2 sl) = BitVec.ofNat 4 (slotWord2 sl).toNat := setWidth_and_mask _ (k := 4) (by decide)
  rw [low, BitVec.toNat_ofNat, Spec.lenField, readW2_toList]

theorem wordBus_slotWord2 (sl : Slot) : wordBus (slotWord2 sl) = BitVec.ofNat 8 (Spec.readW2 sl.toList / 16) := by
  have low : wordBus (slotWord2 sl) = BitVec.ofNat 8 (slotWord2 sl >>> 4).toNat := setWidth_and_mask _ (k := 8) (by decide)
  rw [low, BitVec.toNat_ushiftRight, Nat.shiftRight_eq_div_pow, readW2_toList]

theorem wordCounter_slotWord2 (sl : Slot) : wordCounter (slotWord2 sl) = BitVec.ofNat 16 (Spec.readW2 sl.toList / 65536) := by
  rw [readW2_toList]
  exact setWidth_ushiftRight _ 16 16

theorem lengthIllegal_slotWord2 (sl : Slot) :
    lengthIllegal (wordLength (slotWord2 sl)) = true ↔ 8 < Spec.lenField sl.toList := by
  rw [lengthIllegal, decide_eq_true_iff, wordLength_slotWord2_toNat]

/-- What a slot decodes to, by the model and in plain arithmetic. -/
theorem decodeSlot_eq_decoded (sl : Slot) : decodeSlot sl = Spec.decoded sl.toList := by
  simp only [decodeSlot, Spec.decoded, lengthIllegal_slotWord2, ← Nat.not_le, ite_not, Spec.frameIn,
    wordAddress_slotWord1, wordBus_slotWord2, wordCounter_slotWord2, wordLength_slotWord2_toNat, slotPayload]

/-! ### DECODE -/

/-- The response to DECODE of a slot that decodes so. -/
def decodeResponse (result : Option CanFrame) : Response := result.elim (.error .formatError) (fun f => .ok (.frame f))

/-- DECODE answers with what the slot decodes to, whatever the state. -/
theorem exec_decode_rsps (sl : Slot) (s : State) :
    ∃ t : State, exec (.decode sl) s = .next t ∧ t.rsps = s.rsps ++ [decodeResponse (Spec.decoded sl.toList)] := by
  have result := decodeInto_result sl s.regs
  rw [decodeSlot_eq_decoded] at result
  rw [← result]
  cases h : lengthIllegal (decodeInto sl s.regs).len with
  | false =>
    exact ⟨finish (.frame (frameOf (decodeInto sl s.regs))) (s.mapRegs (decodeInto sl)), by simp [exec, execDecode, h],
      by simp [decodeResponse]⟩
  | true =>
    exact ⟨raiseError .formatError (s.mapRegs (decodeInto sl)), by simp [exec, execDecode, h], by simp [decodeResponse]⟩

/-- Settles O4: past the test of LENGTH nothing more of the slot is taken. -/
theorem decodeOfIllegalLengthIsFormatError : Obligations.DecodeOfIllegalLengthIsFormatError := by
  intro sl s h
  have illegal := (lengthIllegal_slotWord2 sl).2 h
  have answer : exec (.decode sl) s = .next (raiseError .formatError (s.mapRegs (decodeInto sl))) := by
    simp only [exec, execDecode, mapRegs_regs, decodeInto_len, illegal, if_true]
  have regs : decodeInto sl s.regs = { s.regs with
      slot := sl
      w1 := slotWord1 sl
      ext := wordExtended (slotWord1 sl)
      addr := wordAddress (slotWord1 sl)
      w2 := slotWord2 sl
      len := wordLength (slotWord2 sl) } := by
    simp only [decodeInto, readWord2, readWord1, illegal, if_true]
  rw [answer, State.mapRegs, regs, wordExtended_slotWord1, wordAddress_slotWord1, slotWord1_eq,
    eq_ofNat_of_toNat_eq (wordLength_slotWord2_toNat sl), slotWord2_eq]
  rfl

/-- Settles O7: the response is fixed by what the slot decodes to, and that by the places the statement names. -/
theorem decodeIgnoresUnreadPlaces : Obligations.DecodeIgnoresUnreadPlaces := by
  intro p q s _ address low counter payload
  have length : Spec.lenField p.toList = Spec.lenField q.toList := by
    simp only [Spec.lenField]
    omega
  have bus : BitVec.ofNat 8 (Spec.readW2 p.toList / 16) = BitVec.ofNat 8 (Spec.readW2 q.toList / 16) := by
    apply BitVec.eq_of_toNat_eq
    simp only [BitVec.toNat_ofNat]
    omega
  have same : Spec.decoded p.toList = Spec.decoded q.toList := by
    simp only [Spec.decoded, Spec.frameIn, ← length, payload, address, bus, counter]
  obtain ⟨t, ht, htr⟩ := exec_decode_rsps p s
  obtain ⟨u, hu, hur⟩ := exec_decode_rsps q s
  exact ⟨t, u, ht, hu, by rw [htr, hur, same]⟩

end Sys2Proof.Machine
end

section
/-! SUPPORT. The rows of the kline path: checksum, chunk and header (30_encoding.md R85 to R87, R94, R95, R99;
43_kline_checksum_codec.md R177, R185; 45_serial_framer.md R212, R213). -/

namespace Sys2Proof.Machine

theorem byteSum_eq_sum (m : Bytes) : Spec.byteSum m = (m.map BitVec.toNat).sum := by
  induction m with
  | nil => rfl
  | cons b m ih => rw [Spec.byteSum, ih, List.map_cons, List.sum_cons]

theorem checksum_eq (m : Bytes) : checksum m = BitVec.ofNat 8 (Spec.byteSum m) := by rw [checksum, byteSum_eq_sum]

theorem checksum_toNat (m : Bytes) : (checksum m).toNat = Spec.byteSum m % 256 := by rw [checksum_eq, BitVec.toNat_ofNat]

/-- The accumulator holds the sum so far modulo 256: a carry that is dropped never comes back (R94). -/
theorem foldl_add_eq (m : Bytes) (acc : Byte) : m.foldl (· + ·) acc = acc + BitVec.ofNat 8 (Spec.byteSum m) := by
  induction m generalizing acc with
  | nil => simp [Spec.byteSum]
  | cons b m ih =>
    rw [List.foldl_cons, ih, Spec.byteSum, BitVec.ofNat_add, BitVec.ofNat_toNat, BitVec.setWidth_eq, BitVec.add_assoc]

/-- Settles O29: the byte is `checksum`. -/
theorem checksumIsTheSumModulo256 : Obligations.ChecksumIsTheSumModulo256 :=
  fun m _ => ⟨⟨checksum m, checksum_toNat m, rfl⟩, rfl⟩

/-- Settles O30: by induction on the message, the accumulator generalised. -/
theorem checksumIsAnEightBitAccumulator : Obligations.ChecksumIsAnEightBitAccumulator := by
  intro m s
  refine ⟨_, rfl, checksum_toNat m, ?_⟩
  rw [foldl_add_eq, ← checksum_eq]
  exact (BitVec.zero_add _).symm

/-- Settles O31: KCHUNK is `writeChunk` at the index that stands. -/
theorem chunkGoesOutBehindItsSelector : Obligations.ChunkGoesOutBehindItsSelector := fun _ _ _ _ _ => rfl

/-- Settles O42: the test of R212 first, then for a legal header the subtraction of R213, which cannot wrap. -/
theorem headerRowsGiveRemainderOrFormatError : Obligations.HeaderRowsGiveRemainderOrFormatError := by
  constructor
  · intro h l s hl
    have legal : headerIllegal l = false := decide_eq_false (Nat.not_lt.2 hl)
    have rem : l - 2 = BitVec.ofNat 8 (l.toNat - 2) :=
      eq_ofNat_of_toNat_eq (BitVec.toNat_sub_of_le (BitVec.le_def.2 hl))
    rw [← rem]
    simp only [exec, execKrxmsgHdrLegal, legal, Bool.false_eq_true, if_false]
    rfl
  · intro h l s
    rw [BitVec.ofNat_toNat]
    rfl

end Sys2Proof.Machine
end

section
/-! SUPPORT. ENCODE's words and slot in plain arithmetic (30_encoding.md R81, R91 to R93; 40_frame_codec.md R120 to R123): what
the model makes of a frame is what Spec makes of its numbers. -/

namespace Sys2Proof.Machine

/-! ### The words -/

/-- Bits moved up and others put below them: nothing overlaps and nothing is lost. -/
theorem shiftLeft_or_toNat {x low : Word} {k : Nat} (hx : x.toNat * 2 ^ k < 2 ^ 32) (hl : low.toNat < 2 ^ k) :
    (x <<< k ||| low).toNat = x.toNat * 2 ^ k + low.toNat := by
  rw [BitVec.toNat_or, BitVec.toNat_shiftLeft, Nat.shiftLeft_eq, Nat.mod_eq_of_lt hx, ← Nat.shiftLeft_eq,
    Nat.shiftLeft_add_eq_or_of_lt hl]

theorem word1Of_toNat (a : Address) : (word1Of a).toNat = Spec.word1 a.toNat := by
  have wide : (a.setWidth 32).toNat = a.toNat := BitVec.toNat_setWidth_of_le (by decide)
  have ha := a.isLt
  by_cases h : a.toNat < 0x800
  · rw [word1Of, if_neg (Nat.not_le.2 h), Spec.word1, if_pos h, shiftLeft_or_toNat (by omega) (by decide), wide]
    rfl
  · rw [word1Of, if_pos (Nat.not_lt.1 h), Spec.word1, if_neg h, BitVec.or_assoc, shiftLeft_or_toNat (by omega) (by decide), wide]
    rfl

theorem word2Of_toNat {n : Nat} (hn : n < 16) (b : Byte) : (word2Of n b).toNat = Spec.word2 n b.toNat := by
  have wide : (b.setWidth 32).toNat = b.toNat := BitVec.toNat_setWidth_of_le (by decide)
  have low : (BitVec.ofNat 32 n).toNat = n := Nat.mod_eq_of_lt (by omega)
  have hb := b.isLt
  rw [word2Of, BitVec.or_comm, shiftLeft_or_toNat (by omega) (by omega), wide, low, Spec.word2]
  omega

/-! ### The slot -/

theorem leBytes_four (w : Word) : Spec.leBytes 4 w.toNat = le32 w := by
  simp only [Spec.leBytes, le32, List.cons.injEq, and_true]
  refine ⟨?_, ?_, ?_, ?_⟩
  all_goals
    apply BitVec.eq_of_toNat_eq
    rw [BitVec.toNat_ofNat, BitVec.extractLsb'_toNat]
    omega

/-- A payload of at most 8 bytes, read byte by byte past its end, is zero padded. -/
theorem getD_eight {d : Bytes} (h : d.length ≤ 8) :
    [d.getD 0 0, d.getD 1 0, d.getD 2 0, d.getD 3 0, d.getD 4 0, d.getD 5 0, d.getD 6 0, d.getD 7 0] =
      d ++ List.replicate (8 - d.length) 0 := by
  have byIndex : (List.range 8).map (d.getD · 0) = d ++ List.replicate (8 - d.length) 0 := by
    apply List.ext_getElem
    · simp; omega
    · intro i _ _
      by_cases hi : i < d.length
      · simp [hi]
      · simp [hi, List.getElem_append_right (Nat.not_lt.1 hi)]
  exact byIndex

/-- `slot_of` lays the words and the padded payload one behind the other (R123). -/
theorem slotOf_toList (w1 w2 : Word) {d : Bytes} (h : d.length ≤ 8) :
    (slotOf w1 w2 d).toList = Spec.slotBytes w1.toNat w2.toNat d := by
  rw [Spec.slotBytes, leBytes_four, leBytes_four, List.append_assoc, ← getD_eight h]
  rfl

theorem encodeSlot_toList (a : Address) {d : Bytes} (b : Byte) (h : d.length ≤ 8) :
    (encodeSlot a d b).toList = Spec.encoded a d b := by
  rw [encodeSlot, slotOf_toList _ _ h, word1Of_toNat, word2Of_toNat (by omega), Spec.encoded]

/-! ### ENCODE -/

/-- ENCODE of a payload that fits. -/
theorem exec_encode_of_fits (a : Address) {d : Bytes} (b : Byte) (s : State) (h : d.length ≤ 8) :
    exec (.encode a d b) s = .next (finish (.slot (encodeSlot a d b)) (s.mapRegs (encodeInto a d b))) := by
  have fits : payloadTooLong d = false := decide_eq_false (Nat.not_lt.2 h)
  simp only [exec, execEncode, fits, Bool.false_eq_true, if_false]

/-- Settles O1: the words and the slot are those of Spec, and the rest is `finish`. -/
theorem encodeWritesWordsAndSlot : Obligations.EncodeWritesWordsAndSlot := by
  intro a d b s h
  refine ⟨encodeSlot a d b, encodeSlot_toList a b h, ?_⟩
  rw [exec_encode_of_fits a b s h, ← eq_ofNat_of_toNat_eq (word1Of_toNat a),
    ← eq_ofNat_of_toNat_eq (word2Of_toNat (n := d.length) (by omega) b)]
  rfl

/-- Settles O2: the test comes before any word is written. -/
theorem encodeOfLongPayloadIsCallerError : Obligations.EncodeOfLongPayloadIsCallerError := by
  intro a d b s h
  have long : payloadTooLong d = true := decide_eq_true h
  simp only [exec, execEncode, long, if_true]
  rfl

end Sys2Proof.Machine
end

section
/-! SUPPORT. The image rows (40_frame_codec.md R121 to R123; log entries 12 and 23): the word of each, from its number, and
ENCODE as these rows run one after the other. -/

namespace Sys2Proof.Machine

theorem word1StdImage_toNat (a : BitVec 11) : (word1StdBits a 0 0 1).toNat = a.toNat * 2 ^ 21 + 1 := by
  simp [word1StdBits_toNat]

theorem word1ExtImage_toNat (a : BitVec 29) : (word1ExtBits a 0 1).toNat = a.toNat * 8 + 5 := by
  simp [word1ExtBits_toNat]

theorem word2Image_toNat (b : Byte) (l : BitVec 4) : (word2Bits 0 0 b l).toNat = l.toNat + 16 * b.toNat := by
  simp [word2Bits_toNat, Nat.add_comm, Nat.mul_comm]

/-- The payload row with a payload that fits. -/
theorem exec_canslotPayload_of_fits {d : Bytes} (s : State) (h : d.length ≤ 8) :
    exec (.canslotPayload d) s = .next (s.mapRegs fun r => { r with slot := slotOf r.w1 r.w2 d }) := by
  have fits : payloadTooLong d = false := decide_eq_false (Nat.not_lt.2 h)
  simp only [exec, execCanslotPayload, fits, Bool.false_eq_true, if_false]

/-- Settles O14: each row's pattern as a number, and the slot that `slot_of` lays. -/
theorem imageRowsWriteTheWords : Obligations.ImageRowsWriteTheWords := by
  refine ⟨fun a s => ?_, fun a s => ?_, fun b l s => ?_, fun d s h => ?_⟩
  · rw [← eq_ofNat_of_toNat_eq (word1StdImage_toNat a)]
    rfl
  · rw [← eq_ofNat_of_toNat_eq (word1ExtImage_toNat a)]
    rfl
  · rw [← eq_ofNat_of_toNat_eq (word2Image_toNat b l)]
    rfl
  · exact ⟨slotOf s.regs.w1 s.regs.w2 d, slotOf_toList _ _ h, exec_canslotPayload_of_fits s h⟩

/-- The row of `word1` that an address calls for writes ENCODE's word. -/
theorem exec_word1Image (a : Address) (s : State) :
    exec (if a.toNat < 0x800 then .canslotW1StdEnc (a.setWidth 11) else .canslotW1ExtEnc a) s =
      .next (s.mapRegs fun r => { r with w1 := word1Of a }) := by
  by_cases h : a.toNat < 0x800
  · have ident : (a.setWidth 11).toNat = a.toNat := by
      rw [BitVec.toNat_setWidth]
      omega
    have word : word1Of a = word1StdBits (a.setWidth 11) 0 0 1 := by
      apply BitVec.eq_of_toNat_eq
      rw [word1Of_toNat, Spec.word1, if_pos h, word1StdImage_toNat, ident]
    rw [if_pos h, word]
    rfl
  · have word : word1Of a = word1ExtBits a 0 1 := by
      apply BitVec.eq_of_toNat_eq
      rw [word1Of_toNat, Spec.word1, if_neg h, word1ExtImage_toNat]
    rw [if_neg h, word]
    rfl

/-- The row of `word2` with a payload's length writes ENCODE's word. -/
theorem exec_word2Image {n : Nat} (hn : n < 16) (b : Byte) (s : State) :
    exec (.canslotW2Enc b (BitVec.ofNat 4 n)) s = .next (s.mapRegs fun r => { r with w2 := word2Of n b }) := by
  have word : word2Of n b = word2Bits 0 0 b (BitVec.ofNat 4 n) := by
    apply BitVec.eq_of_toNat_eq
    rw [word2Of_toNat hn, word2Image_toNat, Spec.word2, BitVec.toNat_ofNat, Nat.mod_eq_of_lt hn]
  rw [word]
  rfl

/-- Settles O9: the rows write W1, W2 and SLOT, and RSP delivers the slot they made. -/
theorem encodeIsItsImageRows : Obligations.EncodeIsItsImageRows := by
  intro a d b s h
  exact ⟨_, _, _, _, _, exec_word1Image a s, exec_word2Image (by omega) b _, exec_canslotPayload_of_fits _ h, rfl,
    exec_encode_of_fits a b s h, rfl⟩

end Sys2Proof.Machine
end

section
/-! SUPPORT. DECODE of a slot with a legal LENGTH (40_frame_codec.md R125 to R128): its registers and its response in plain
arithmetic. -/

namespace Sys2Proof.Machine

theorem lengthLegal_slotWord2 {sl : Slot} (h : Spec.lenField sl.toList ≤ 8) :
    lengthIllegal (wordLength (slotWord2 sl)) = false := by
  rw [← Bool.not_eq_true, lengthIllegal_slotWord2]
  exact Nat.not_lt.2 h

/-- DECODE, when the test of LENGTH lets it go on to its response. -/
theorem exec_decode_of_lengthLegal (sl : Slot) (s : State) (h : lengthIllegal (wordLength (slotWord2 sl)) = false) :
    exec (.decode sl) s = .next (finish (.frame (frameOf (decodeInto sl s.regs))) (s.mapRegs (decodeInto sl))) := by
  simp only [exec, execDecode, mapRegs_regs, decodeInto_len, h, Bool.false_eq_true, if_false]

/-- DECODE's registers after a slot with a legal LENGTH. -/
theorem decodeInto_of_legal (sl : Slot) (r : Regs) (h : Spec.lenField sl.toList ≤ 8) :
    decodeInto sl r = { r with
      slot := sl
      w1 := BitVec.ofNat 32 (Spec.readW1 sl.toList)
      ext := Spec.isExt sl.toList
      addr := (Spec.frameIn sl.toList).address
      w2 := BitVec.ofNat 32 (Spec.readW2 sl.toList)
      len := BitVec.ofNat 4 (Spec.lenField sl.toList)
      data := (Spec.frameIn sl.toList).data
      busr := (Spec.frameIn sl.toList).bus
      ctr := (Spec.frameIn sl.toList).counter } := by
  rw [decodeInto, readWord2, if_neg (Bool.eq_false_iff.1 (lengthLegal_slotWord2 h)), readWord1, wordExtended_slotWord1,
    wordAddress_slotWord1, wordBus_slotWord2, wordCounter_slotWord2, wordLength_slotWord2_toNat, ← slotWord1_eq,
    ← slotWord2_eq, ← eq_ofNat_of_toNat_eq (wordLength_slotWord2_toNat sl)]
  rfl

/-- DECODE of a slot with a legal LENGTH delivers the frame in its bytes. -/
theorem exec_decode_of_legal (sl : Slot) (s : State) (h : Spec.lenField sl.toList ≤ 8) :
    exec (.decode sl) s = .next (finish (.frame (Spec.frameIn sl.toList)) (s.mapRegs (decodeInto sl))) := by
  rw [exec_decode_of_lengthLegal sl s (lengthLegal_slotWord2 h), decodeInto_of_legal sl s.regs h]
  rfl

/-- Settles O3: the registers hold what Spec reads from the bytes, and the rest is `finish`. -/
theorem decodeReadsEveryField : Obligations.DecodeReadsEveryField := by
  intro sl s h
  rw [exec_decode_of_legal sl s h, State.mapRegs, decodeInto_of_legal sl s.regs h]
  rfl

end Sys2Proof.Machine
end

section
/-! SUPPORT. DECODE undoes ENCODE (40_frame_codec.md R130, R131), and ENCODE undoes DECODE on the slots it writes (R132;
30_encoding.md R101). -/

namespace Sys2Proof.Machine

/-! ### What is read from a slot that ENCODE wrote -/

/-- The four bytes of a word give it back (00_scope.md R10). -/
theorem unLE32_extractLsb' (w : Word) :
    unLE32 (w.extractLsb' 0 8) (w.extractLsb' 8 8) (w.extractLsb' 16 8) (w.extractLsb' 24 8) = w :=
  congrArg Prod.fst (Except.ok.inj (takeWord_le32 w []))

theorem readW1_encodeSlot (a : Address) (d : Bytes) (b : Byte) :
    Spec.readW1 (encodeSlot a d b).toList = Spec.word1 a.toNat := by
  rw [readW1_toList, ← word1Of_toNat]
  exact congrArg BitVec.toNat (unLE32_extractLsb' _)

theorem readW2_encodeSlot (a : Address) {d : Bytes} (b : Byte) (h : d.length ≤ 8) :
    Spec.readW2 (encodeSlot a d b).toList = Spec.word2 d.length b.toNat := by
  rw [readW2_toList, ← word2Of_toNat (by omega)]
  exact congrArg BitVec.toNat (unLE32_extractLsb' _)

theorem drop_encodeSlot (a : Address) {d : Bytes} (b : Byte) (h : d.length ≤ 8) :
    (encodeSlot a d b).toList.drop 8 = d ++ List.replicate (8 - d.length) 0 := getD_eight h

theorem isExt_encodeSlot (a : Address) (d : Bytes) (b : Byte) :
    Spec.isExt (encodeSlot a d b).toList = decide (0x800 ≤ a.toNat) := by
  rw [Spec.isExt, readW1_encodeSlot, Spec.word1, decide_eq_decide]
  split <;> omega

theorem addrField_encodeSlot (a : Address) (d : Bytes) (b : Byte) :
    Spec.addrField (encodeSlot a d b).toList = a.toNat := by
  rw [Spec.addrField, isExt_encodeSlot, readW1_encodeSlot, Spec.word1]
  by_cases h : 0x800 ≤ a.toNat
  · rw [decide_eq_true h, if_pos rfl, if_neg (Nat.not_lt.2 h)]
    omega
  · rw [decide_eq_false h, if_neg Bool.false_ne_true, if_pos (Nat.not_le.1 h)]
    omega

theorem lenField_encodeSlot (a : Address) {d : Bytes} (b : Byte) (h : d.length ≤ 8) :
    Spec.lenField (encodeSlot a d b).toList = d.length := by
  rw [Spec.lenField, readW2_encodeSlot a b h, Spec.word2]
  omega

/-- The frame comes back, with counter 0: ENCODE writes nothing above BUS. -/
theorem frameIn_encodeSlot (a : Address) {d : Bytes} (b : Byte) (h : d.length ≤ 8) :
    Spec.frameIn (encodeSlot a d b).toList = ⟨a, d, b, 0⟩ := by
  have hb := b.isLt
  have bus : (d.length + 16 * b.toNat) / 16 = b.toNat := by omega
  have counter : (d.length + 16 * b.toNat) / 65536 = 0 := by omega
  rw [Spec.frameIn, addrField_encodeSlot, lenField_encodeSlot a b h, readW2_encodeSlot a b h, Spec.word2,
    drop_encodeSlot a b h, List.take_left, bus, counter, ← eq_ofNat_of_toNat_eq rfl, ← eq_ofNat_of_toNat_eq rfl]
  rfl

/-! ### DECODE of ENCODE -/

/-- ENCODE, and then DECODE of its slot: the form is chosen by the value alone and the frame comes back (R121, R130). -/
theorem exec_encode_exec_decode (a : Address) {d : Bytes} (b : Byte) (s : State) (h : d.length ≤ 8) :
    ∃ (sl : Slot) (t u : State), exec (.encode a d b) s = .next t ∧ t.rsps = s.rsps ++ [.ok (.slot sl)] ∧
      t.regs.w1.getLsbD 2 = decide (0x800 ≤ a.toNat) ∧
      exec (.decode sl) t = .next u ∧ u.rsps = t.rsps ++ [.ok (.frame ⟨a, d, b, 0⟩)] ∧
      u.regs.ext = decide (0x800 ≤ a.toNat) ∧ u.regs.addr = a := by
  have legal : Spec.lenField (encodeSlot a d b).toList ≤ 8 := (lenField_encodeSlot a b h).trans_le h
  have form : (word1Of a).getLsbD 2 = decide (0x800 ≤ a.toNat) := by
    rw [← isExt_encodeSlot a d b, ← wordExtended_slotWord1]
    exact congrArg (BitVec.getLsbD · 2) (unLE32_extractLsb' _).symm
  refine ⟨encodeSlot a d b, _, _, exec_encode_of_fits a b s h, rfl, form, exec_decode_of_legal _ _ legal, ?_, ?_, ?_⟩
  · rw [finish_rsps, frameIn_encodeSlot a b h]
    rfl
  · rw [finish_regs, mapRegs_regs, decodeInto_of_legal _ _ legal]
    exact isExt_encodeSlot a d b
  · rw [finish_regs, mapRegs_regs, decodeInto_of_legal _ _ legal, frameIn_encodeSlot a b h]

/-- Settles O5: the response of DECODE after ENCODE. -/
theorem decodeOfEncodeGivesTheFrame : Obligations.DecodeOfEncodeGivesTheFrame := by
  intro a d b s h
  obtain ⟨sl, t, u, ht, slot, -, hu, frame, -, -⟩ := exec_encode_exec_decode a b s h
  exact ⟨sl, t, u, ht, slot, hu, frame⟩

/-- Settles O6: the two addresses at the boundary, each with the form its value calls for. -/
theorem formBoundaryAt7FFAnd800 : Obligations.FormBoundaryAt7FFAnd800 := by
  intro d b s h
  constructor
  · obtain ⟨sl, t, u, ht, slot, w1, hu, -, ext, addr⟩ := exec_encode_exec_decode 0x7FF b s h
    exact ⟨sl, t, u, ht, slot, w1, hu, ext, addr⟩
  · obtain ⟨sl, t, u, ht, slot, w1, hu, -, ext, addr⟩ := exec_encode_exec_decode 0x800 b s h
    exact ⟨sl, t, u, ht, slot, w1, hu, ext, addr⟩

/-! ### ENCODE of DECODE -/

/-- The word of four bytes has those bytes (00_scope.md R10). -/
theorem le32_unLE32 (b0 b1 b2 b3 : Byte) : le32 (unLE32 b0 b1 b2 b3) = [b0, b1, b2, b3] := by
  have word := unLE32_toNat b0 b1 b2 b3
  simp only [le32, List.cons.injEq, extractLsb'_eq_iff, and_true]
  omega

/-- The slot laid from a slot's own words and payload is that slot. -/
theorem slotOf_words_payload (sl : Slot) : slotOf (slotWord1 sl) (slotWord2 sl) (sl.toList.drop 8) = sl := by
  rw [← Vector.toList_inj, slotOf_toList _ _ (by simp), Spec.slotBytes, leBytes_four, leBytes_four, slotWord1, slotWord2,
    le32_unLE32, le32_unLE32, slot_toList sl]
  rfl

/-- A slot is its two words and its payload. -/
theorem slot_eq_iff {p q : Slot} :
    p = q ↔ Spec.readW1 p.toList = Spec.readW1 q.toList ∧ Spec.readW2 p.toList = Spec.readW2 q.toList ∧
      p.toList.drop 8 = q.toList.drop 8 := by
  constructor
  · rintro rfl
    exact ⟨rfl, rfl, rfl⟩
  · rintro ⟨h1, h2, hd⟩
    rw [← slotOf_words_payload p, ← slotOf_words_payload q, slotWord1_eq, slotWord2_eq, h1, h2, hd, ← slotWord1_eq,
      ← slotWord2_eq]

theorem readW1_lt (sl : Slot) : Spec.readW1 sl.toList < 2 ^ 32 := by
  rw [readW1_toList]
  exact (slotWord1 sl).isLt

theorem addrField_lt (sl : Slot) : Spec.addrField sl.toList < 2 ^ 29 := by
  have := readW1_lt sl
  rw [Spec.addrField]
  split <;> omega

/-- ENCODE writes a slot's `word1` again exactly when TRANSMIT is 1, the ignored bits are 0 and the form is the one the
identifier calls for. -/
theorem word1_addrField_iff (sl : Slot) :
    Spec.word1 (Spec.addrField sl.toList) = Spec.readW1 sl.toList ↔
      Spec.readW1 sl.toList % 2 = 1 ∧ Spec.readW1 sl.toList / 2 % 2 = 0 ∧
      (Spec.isExt sl.toList = false → Spec.readW1 sl.toList / 8 % 2 ^ 18 = 0) ∧
      (Spec.isExt sl.toList = true ↔ 0x800 ≤ Spec.addrField sl.toList) := by
  have range := readW1_lt sl
  cases h : Spec.isExt sl.toList with
  | false =>
    have standard : ¬ Spec.readW1 sl.toList / 4 % 2 = 1 := of_decide_eq_false h
    have address : Spec.addrField sl.toList = Spec.readW1 sl.toList / 2 ^ 21 := by simp [Spec.addrField, h]
    have small : Spec.readW1 sl.toList / 2 ^ 21 < 0x800 := by omega
    simp only [address, Spec.word1, small, if_true, Bool.false_eq_true, eq_self, true_imp_iff, false_iff, Nat.not_le, and_true]
    omega
  | true =>
    have extended : Spec.readW1 sl.toList / 4 % 2 = 1 := of_decide_eq_true h
    have address : Spec.addrField sl.toList = Spec.readW1 sl.toList / 8 := by simp [Spec.addrField, h]
    simp only [address, Spec.word1, Bool.true_eq_false, false_imp_iff, true_iff, true_and]
    split <;> omega

/-- Zero padding put in the place of what stands behind the payload changes nothing exactly when that is all zero. -/
theorem take_append_zeros_iff {l : Bytes} {n k : Nat} (hl : l.length = n + k) :
    l.take n ++ List.replicate k 0 = l ↔ ∀ x ∈ l.drop n, x = 0 := by
  have padding : l.take n ++ List.replicate k 0 = l ↔ List.replicate k 0 = l.drop n := by
    conv_lhs => rhs; rw [← List.take_append_drop n l]
    exact List.append_right_inj _
  rw [padding, eq_comm, List.eq_replicate_iff, List.length_drop]
  exact and_iff_right (by omega)

/-- Settles O8: word by word and then the padding. -/
theorem reencodeIsIdentityExactlyOnImages : Obligations.ReencodeIsIdentityExactlyOnImages := by
  intro sl s h
  have payload : (sl.toList.drop 8).length = Spec.lenField sl.toList + (8 - Spec.lenField sl.toList) := by simp; omega
  have length : (Spec.frameIn sl.toList).data.length = Spec.lenField sl.toList := by simp [Spec.frameIn]; omega
  have fits : (Spec.frameIn sl.toList).data.length ≤ 8 := length.trans_le h
  have address : (Spec.frameIn sl.toList).address.toNat = Spec.addrField sl.toList := Nat.mod_eq_of_lt (addrField_lt sl)
  have word2 : Spec.word2 (Spec.lenField sl.toList) (Spec.frameIn sl.toList).bus.toNat = Spec.readW2 sl.toList ↔
      Spec.readW2 sl.toList / 4096 = 0 := by
    simp only [Spec.word2, Spec.lenField, Spec.frameIn, BitVec.toNat_ofNat]
    omega
  have padding := take_append_zeros_iff payload
  rw [List.drop_drop] at padding
  refine ⟨_, _, exec_encode_of_fits _ _ s fits, rfl, ?_⟩
  rw [slot_eq_iff, readW1_encodeSlot, readW2_encodeSlot _ _ fits, drop_encodeSlot _ _ fits, length, address,
    word1_addrField_iff, word2, Spec.frameIn, padding]
  tauto

end Sys2Proof.Machine
end

section
/-! SUPPORT. DECODE as the decode cases of its two words run one after the other (30_encoding.md R97, R98; 40_frame_codec.md R125
to R128; log entry 12). -/

namespace Sys2Proof.Machine

/-! ### The rows of `word1` -/

/-- Every word has the pattern of one row (R82, R83). -/
theorem word1_forms (w : Word) :
    (∃ a x y t, w = word1StdBits a x y t) ∨ ∃ a y t, w = word1ExtBits a y t := by
  by_cases h : w.toNat / 4 % 2 = 1
  · refine .inr ⟨w.extractLsb' 3 29, w.extractLsb' 1 1, w.extractLsb' 0 1, BitVec.eq_of_toNat_eq ?_⟩
    simp only [word1ExtBits_toNat, BitVec.extractLsb'_toNat, Nat.shiftRight_eq_div_pow]
    omega
  · refine .inl ⟨w.extractLsb' 21 11, w.extractLsb' 3 18, w.extractLsb' 1 1, w.extractLsb' 0 1, BitVec.eq_of_toNat_eq ?_⟩
    simp only [word1StdBits_toNat, BitVec.extractLsb'_toNat, Nat.shiftRight_eq_div_pow]
    omega

theorem readWord1_word1StdBits (a : BitVec 11) (x : BitVec 18) (y t : BitVec 1) (r : Regs) :
    readWord1 (word1StdBits a x y t) r = { r with w1 := word1StdBits a x y t, ext := false, addr := a.setWidth 29 } := by
  have hw := word1StdBits_toNat a x y t
  have form : wordExtended (word1StdBits a x y t) = false := by
    rw [wordExtended, getLsbD_two, decide_eq_false_iff_not]
    omega
  have ident : wordAddress (word1StdBits a x y t) = a.setWidth 29 := by
    rw [wordAddress, form, if_neg Bool.false_ne_true, setWidth_ushiftRight, ← BitVec.ofNat_toNat]
    congr 1
    omega
  rw [readWord1, form, ident]

theorem readWord1_word1ExtBits (a : BitVec 29) (y t : BitVec 1) (r : Regs) :
    readWord1 (word1ExtBits a y t) r = { r with w1 := word1ExtBits a y t, ext := true, addr := a } := by
  have hw := word1ExtBits_toNat a y t
  have form : wordExtended (word1ExtBits a y t) = true := by
    rw [wordExtended, getLsbD_two, decide_eq_true_eq]
    omega
  have ident : wordAddress (word1ExtBits a y t) = a := by
    rw [wordAddress, form, if_pos rfl, setWidth_ushiftRight]
    exact (eq_ofNat_of_toNat_eq (by omega)).symm
  rw [readWord1, form, ident]

/-- The row that bit 2 selects does DECODE's step on `word1` (R97, R126). -/
theorem exec_decodeWord1Rx (w : Word) (s : State) :
    exec (decodeWord1Rx w) s = .next (s.mapRegs (readWord1 w)) := by
  obtain ⟨a, x, y, t, rfl⟩ | ⟨a, y, t, rfl⟩ := word1_forms w
  · rw [decodeWord1Rx_word1StdBits, State.mapRegs, readWord1_word1StdBits]
    rfl
  · rw [decodeWord1Rx_word1ExtBits, State.mapRegs, readWord1_word1ExtBits]
    rfl

/-! ### The rows of `word2` -/

/-- Every word is made of the four fields its rows name (R84). -/
theorem word2_form (w : Word) : ∃ c x b l, w = word2Bits c x b l := by
  refine ⟨w.extractLsb' 16 16, w.extractLsb' 12 4, w.extractLsb' 4 8, w.extractLsb' 0 4, BitVec.eq_of_toNat_eq ?_⟩
  simp only [word2Bits_toNat, BitVec.extractLsb'_toNat, Nat.shiftRight_eq_div_pow]
  omega

/-- Every LENGTH is of the form of one row (R97, R98). -/
theorem length_forms : ∀ l : BitVec 4,
    (∃ k : BitVec 3, l = 0#1 ++ k) ∨ l = 8 ∨ l = 9 ∨ (∃ k : BitVec 1, l = 5#3 ++ k) ∨ ∃ k : BitVec 2, l = 3#2 ++ k := by
  decide

section
variable (c : BitVec 16) (x : BitVec 4) (b : Byte) (l : BitVec 4)

@[simp] theorem wordLength_word2Bits : wordLength (word2Bits c x b l) = l := by
  have hw := word2Bits_toNat c x b l
  have low : wordLength (word2Bits c x b l) = BitVec.ofNat 4 (word2Bits c x b l).toNat :=
    setWidth_and_mask _ (k := 4) (by decide)
  apply BitVec.eq_of_toNat_eq
  rw [low, BitVec.toNat_ofNat]
  omega

@[simp] theorem wordBus_word2Bits : wordBus (word2Bits c x b l) = b := by
  have hw := word2Bits_toNat c x b l
  have low : wordBus (word2Bits c x b l) = BitVec.ofNat 8 (word2Bits c x b l >>> 4).toNat :=
    setWidth_and_mask _ (k := 8) (by decide)
  apply BitVec.eq_of_toNat_eq
  rw [low, BitVec.toNat_ofNat, BitVec.toNat_ushiftRight, Nat.shiftRight_eq_div_pow]
  omega

@[simp] theorem wordCounter_word2Bits : wordCounter (word2Bits c x b l) = c := by
  have hw := word2Bits_toNat c x b l
  rw [wordCounter, setWidth_ushiftRight]
  exact (eq_ofNat_of_toNat_eq (by omega)).symm

end

/-- Where DECODE's step on `word2` leads: FormatError or on to the response (R127). -/
def afterWord2 (w2 : Word) (s : State) : State :=
  if lengthIllegal (wordLength w2) then raiseError .formatError (s.mapRegs (readWord2 w2)) else s.mapRegs (readWord2 w2)

theorem afterWord2_of_illegal (c : BitVec 16) (x : BitVec 4) (b : Byte) {l : BitVec 4} (hl : lengthIllegal l = true)
    (s : State) : afterWord2 (word2Bits c x b l) s = refuseLength c x b l s := by
  simp only [afterWord2, State.mapRegs, readWord2, wordLength_word2Bits, hl, if_true, refuseLength]

theorem afterWord2_of_legal (c : BitVec 16) (x : BitVec 4) (b : Byte) {l : BitVec 4} (hl : lengthIllegal l = false)
    (s : State) : afterWord2 (word2Bits c x b l) s = s.mapRegs (readLegalWord2 c x b l) := by
  simp only [afterWord2, State.mapRegs, readWord2, wordLength_word2Bits, wordBus_word2Bits, wordCounter_word2Bits, hl,
    Bool.false_eq_true, if_false, readLegalWord2]

/-- The row that LENGTH selects does DECODE's step on `word2` (R97, R98, R127, R128). -/
theorem exec_decodeWord2Rx (w : Word) (s : State) : exec (decodeWord2Rx w) s = .next (afterWord2 w s) := by
  obtain ⟨c, x, b, l, rfl⟩ := word2_form w
  obtain ⟨k, rfl⟩ | rfl | rfl | ⟨k, rfl⟩ | ⟨k, rfl⟩ := length_forms l
  · have legal : ∀ k : BitVec 3, lengthIllegal (0#1 ++ k) = false := by decide
    rw [decodeWord2Rx_len0to7, afterWord2_of_legal c x b (legal k)]
    rfl
  · rw [decodeWord2Rx_len8, afterWord2_of_legal c x b rfl]
    rfl
  · rw [decodeWord2Rx_illegal9, afterWord2_of_illegal c x b rfl]
    rfl
  · have illegal : ∀ k : BitVec 1, lengthIllegal (5#3 ++ k) = true := by decide
    rw [decodeWord2Rx_illegal10to11, afterWord2_of_illegal c x b (illegal k)]
    rfl
  · have illegal : ∀ k : BitVec 2, lengthIllegal (3#2 ++ k) = true := by decide
    rw [decodeWord2Rx_illegal12to15, afterWord2_of_illegal c x b (illegal k)]
    rfl

/-! ### Both words -/

theorem decode_word1Rx_toList (sl : Slot) :
    decode .word1Rx (sl.toList.take 4) = .ok (decodeWord1Rx (slotWord1 sl), []) := by
  rw [slot_toList]
  rfl

theorem decode_word2Rx_toList (sl : Slot) :
    decode .word2Rx ((sl.toList.drop 4).take 4) = .ok (decodeWord2Rx (slotWord2 sl), []) := by
  rw [slot_toList]
  rfl

/-- Both steps on the captured slot are DECODE's work on the registers, with the test of LENGTH at its end (R125, R127). -/
theorem afterWord2_slotWord2 (sl : Slot) (s : State) :
    afterWord2 (slotWord2 sl) (State.mapRegs { s with regs := { s.regs with slot := sl } } (readWord1 (slotWord1 sl))) =
      if lengthIllegal (wordLength (slotWord2 sl)) then raiseError .formatError (s.mapRegs (decodeInto sl))
      else s.mapRegs (decodeInto sl) := rfl

/-- Settles O10: both rows together do what DECODE does to the registers; LENGTH decides who responds. -/
theorem decodeIsItsCaseRows : Obligations.DecodeIsItsCaseRows := by
  intro sl s
  cases h : lengthIllegal (wordLength (slotWord2 sl)) with
  | true =>
    have long := (lengthIllegal_slotWord2 sl).1 h
    have answer : exec (.decode sl) s = .next (raiseError .formatError (s.mapRegs (decodeInto sl))) := by
      simp only [exec, execDecode, mapRegs_regs, decodeInto_len, h, if_true]
    have rows := afterWord2_slotWord2 sl s
    rw [h, if_pos rfl] at rows
    exact ⟨_, _, _, _, _, decode_word1Rx_toList sl, decode_word2Rx_toList sl, exec_decodeWord1Rx _ _,
      (exec_decodeWord2Rx _ _).trans (congrArg _ rows), answer, rfl, fun _ => rfl, fun legal => absurd long legal.not_gt⟩
  | false =>
    have legal : ¬ 8 < Spec.lenField sl.toList := by
      rw [← lengthIllegal_slotWord2, h]
      exact Bool.false_ne_true
    have rows := afterWord2_slotWord2 sl s
    rw [h, if_neg Bool.false_ne_true] at rows
    exact ⟨_, _, _, _, _, decode_word1Rx_toList sl, decode_word2Rx_toList sl, exec_decodeWord1Rx _ _,
      (exec_decodeWord2Rx _ _).trans (congrArg _ rows), exec_decode_of_lengthLegal sl s h, rfl,
      fun long => absurd long legal, fun _ => rfl⟩

end Sys2Proof.Machine
end

section
/-! SUPPORT. A buffer of slots (30_encoding.md R80; 41_bus_multiplexer.md R142, R146, R147): cut at multiples of 16 bytes it
gives back the items that were laid one behind the other, and its slots decode as Spec decodes their bytes. -/

namespace Sys2Proof.Machine

theorem sliceAt_append_zero {b : Bytes} (hb : b.length = 16) (bs : Bytes) : sliceAt (b ++ bs) 0 = b :=
  List.take_left' hb

theorem sliceAt_append_succ {b : Bytes} (hb : b.length = 16) (bs : Bytes) (i : Nat) :
    sliceAt (b ++ bs) (i + 1) = sliceAt bs i := by
  rw [sliceAt, sliceAt, Nat.mul_succ, Nat.add_comm, ← List.drop_drop, List.drop_left' hb]

/-- Items of 16 bytes laid one behind the other are the slices of their buffer, in order. -/
theorem sliceAt_flatMap {α : Type} {lay : α → Bytes} {as : List α} (hlay : ∀ a ∈ as, (lay a).length = 16) :
    (List.range as.length).map (sliceAt (as.flatMap lay)) = as.map lay := by
  induction as with
  | nil => rfl
  | cons a as ih =>
    obtain ⟨head, tail⟩ := List.forall_mem_cons.1 hlay
    rw [List.length_cons, List.range_succ_eq_map, List.map_cons, List.map_map, List.flatMap_cons, List.map_cons,
      sliceAt_append_zero head, ← ih tail]
    exact congrArg _ (List.map_congr_left fun i _ => sliceAt_append_succ head _ i)

theorem length_flatMap_slots {α : Type} {lay : α → Bytes} {as : List α} (hlay : ∀ a ∈ as, (lay a).length = 16) :
    (as.flatMap lay).length = 16 * as.length := by
  rw [List.length_flatMap, List.map_congr_left hlay, List.map_const', List.sum_replicate, smul_eq_mul, Nat.mul_comm]

/-- A slot made of 16 bytes holds just these. -/
theorem slotOfBytes_toList {b : Bytes} (hb : b.length = 16) : (slotOfBytes b).toList = b := by
  have byIndex : (List.range 16).map (b.getD · 0) = b := by
    apply List.ext_getElem
    · simp [hb]
    · intro i _ hi
      simp [hi]
  exact byIndex

/-- The whole slots of a buffer decode to what Spec receives from its bytes. -/
theorem map_decodeSlot_slotsOf (buf : Bytes) :
    (slotsOf buf (buf.length / 16)).map decodeSlot = Spec.received buf := by
  rw [slotsOf, List.map_map]
  refine List.map_congr_left fun i hi => ?_
  have whole : (sliceAt buf i).length = 16 := by
    have := List.mem_range.1 hi
    simp only [sliceAt, List.length_take, List.length_drop, Config.slotBytes]
    omega
  rw [Function.comp_apply, decodeSlot_eq_decoded, slotOfBytes_toList whole]
  rfl

/-! ### The slots of legal frames -/

theorem encoded_length (a : Address) {d : Bytes} (b : Byte) (h : d.length ≤ 8) : (Spec.encoded a d b).length = 16 := by
  rw [← encodeSlot_toList a b h, Vector.length_toList]

theorem decoded_encoded (a : Address) {d : Bytes} (b : Byte) (h : d.length ≤ 8) :
    Spec.decoded (Spec.encoded a d b) = some ⟨a, d, b, 0⟩ := by
  rw [← encodeSlot_toList a b h, Spec.decoded, lenField_encodeSlot a b h, if_pos h, frameIn_encodeSlot a b h]

/-- The concatenated slots of legal frames are received as these frames in order, each with counter 0 (R150). -/
theorem received_flatMap_encoded {fs : List TxFrame} (h : ∀ f ∈ fs, f.data.length ≤ 8) :
    Spec.received (fs.flatMap fun f => Spec.encoded f.address f.data f.bus) =
      (fs.map fun f => (⟨f.address, f.data, f.bus, 0⟩ : CanFrame)).map some := by
  have sized : ∀ f ∈ fs, (Spec.encoded f.address f.data f.bus).length = 16 := fun f hf => encoded_length _ _ (h f hf)
  calc Spec.received (fs.flatMap fun f => Spec.encoded f.address f.data f.bus)
      = ((List.range fs.length).map (sliceAt (fs.flatMap fun f => Spec.encoded f.address f.data f.bus))).map Spec.decoded := by
        rw [Spec.received, length_flatMap_slots sized, Nat.mul_div_cancel_left _ (by decide), List.map_map]
        rfl
    _ = fs.map (fun f => Spec.decoded (Spec.encoded f.address f.data f.bus)) := by
        rw [sliceAt_flatMap sized, List.map_map]
        rfl
    _ = (fs.map fun f => (⟨f.address, f.data, f.bus, 0⟩ : CanFrame)).map some := by
        rw [List.map_map]
        exact List.map_congr_left fun f hf => decoded_encoded _ _ (h f hf)

end Sys2Proof.Machine
end

section
/-! SUPPORT. CANRECV (41_bus_multiplexer.md R145 to R150): the registers its loop writes, the response it makes of the decoded
slots, and the one step that a read answered Ok is. -/

namespace Sys2Proof.Machine

/-! ### The registers -/

/-- The registers DECODE and CANRECV's loop write, taken from `c` (R147; log entry 13). -/
def Regs.withDecoded (r c : Regs) : Regs :=
  { r with
    addr := c.addr, busr := c.busr, data := c.data, w1 := c.w1, w2 := c.w2, slot := c.slot, ext := c.ext, len := c.len
    ctr := c.ctr, idx := c.idx }

theorem withDecoded_decodeInto (sl : Slot) (r c : Regs) : (decodeInto sl r).withDecoded c = r.withDecoded c := by
  rw [decodeInto, readWord2]
  split <;> rfl

/-- The decoding loop leaves the registers of the other units alone. -/
theorem decodeLoop_regs (i : Nat) (sls : List Slot) (r : Regs) :
    (decodeLoop i sls r).1 = r.withDecoded (decodeLoop i sls r).1 := by
  induction sls generalizing i r with
  | nil => rfl
  | cons sl sls ih => exact (ih _ _).trans (withDecoded_decodeInto sl { r with idx := BitVec.ofNat 9 i } _)

/-! ### The response -/

/-- CANRECV from the bytes of its read, in plain arithmetic. -/
theorem receiveBytes_eq (bytes : Bytes) (s : State) :
    ∃ c : Regs, receiveBytes bytes s = respond (receiveResult s.cfg.rxErrPolicy (Spec.received bytes))
      { s with regs :=
        Regs.withDecoded { s.regs with rxbuf := bytes, nslot := BitVec.ofNat 9 (bytes.length / 16) } c } := by
  refine ⟨(decodeLoop 0 (slotsOf bytes (bytes.length / 16))
    { s.regs with rxbuf := bytes, nslot := BitVec.ofNat 9 (bytes.length / 16) }).1, ?_⟩
  rw [← decodeLoop_regs, ← map_decodeSlot_slotsOf, ← decodeLoop_results 0 _
    { s.regs with rxbuf := bytes, nslot := BitVec.ofNat 9 (bytes.length / 16) }]
  rfl

/-- The step at CR_RD when the read is answered Ok within its request. -/
theorem step_canrecv_ok {n : Nat} {rest : List Event} {s : State} (hl : s.latch = none) (hc : s.conn = .connected)
    (hp : s.phase = .reading .crRd .canRx 4096) (hi : s.inbox = .answer (.ok n) :: rest)
    (hm : ((s.inbound.waiting .canRx).take n).length ≤ 4096) :
    ∃ c : Regs, step s =
      .next (respond (receiveResult s.cfg.rxErrPolicy (Spec.received ((s.inbound.waiting .canRx).take n)))
        { s with
          inbox := rest
          inbound := s.inbound.put .canRx ((s.inbound.waiting .canRx).drop n)
          regs := Regs.withDecoded { s.regs with
            rxbuf := (s.inbound.waiting .canRx).take n
            nslot := BitVec.ofNat 9 (((s.inbound.waiting .canRx).take n).length / 16) } c }) := by
  obtain ⟨c, hr⟩ := receiveBytes_eq ((s.inbound.waiting .canRx).take n) ({ s with inbox := rest }.consume .canRx n)
  exact ⟨c, (step_read_ok hl hc hp hi hm).trans (congrArg _ hr)⟩

/-- The count of failed slots is 0 just when no slot failed. -/
theorem failed_eq_zero_iff {results : List (Option CanFrame)} :
    (results.filter Option.isNone).length = 0 ↔ none ∉ results := by
  simp [List.filter_eq_nil_iff, List.forall_mem_ne']

/-- The response under ABORT (R148, D10). -/
theorem receiveResult_abort (results : List (Option CanFrame)) :
    receiveResult .abort results =
      if none ∈ results then .error .formatError else .ok (.frames (results.filterMap id) 0) := by
  simp only [receiveResult, failed_eq_zero_iff, ite_not]

/-- When every slot decodes, both policies deliver all the frames and drop none (R148). -/
theorem receiveResult_map_some (policy : RxErrPolicy) (frames : List CanFrame) :
    receiveResult policy (frames.map some) = .ok (.frames frames 0) := by
  have none_failed : ((frames.map some).filter Option.isNone).length = 0 := failed_eq_zero_iff.2 (by simp)
  have all_decoded : (frames.map some).filterMap id = frames := by simp
  cases policy <;> simp only [receiveResult, none_failed, all_decoded, if_true]

/-! ### The statements -/

/-- Settles O19: RDRETRY up to its suspension point is all that CANRECV does at its command. -/
theorem canrecvAsksForFullRead : Obligations.CanrecvAsksForFullRead := fun _ => rfl

/-- Settles O20: the step at CR_RD, with the response DROP makes. -/
theorem canrecvDropsFailedSlots : Obligations.CanrecvDropsFailedSlots := by
  rintro n rest buf s hl hc hp hi rfl hm drop
  obtain ⟨c, hs⟩ := step_canrecv_ok hl hc hp hi hm
  refine ⟨c, ?_⟩
  rw [hs, drop]
  rfl

/-- Settles O21: the step at CR_RD, with the response ABORT makes. -/
theorem canrecvAbortsOnFailedSlot : Obligations.CanrecvAbortsOnFailedSlot := by
  rintro n rest buf s hl hc hp hi rfl hm abort
  obtain ⟨c, hs⟩ := step_canrecv_ok hl hc hp hi hm
  rw [abort, receiveResult_abort] at hs
  exact ⟨_, hs, rfl, rfl, rfl⟩

/-- Settles O22: 256 slots fit in the request, and what is received from them is the frames they were made of. -/
theorem multiplexingKeepsOrder : Obligations.MultiplexingKeepsOrder := by
  intro fs n rest s hn h hl hc hp hi hbuf
  have size := length_flatMap_slots fun f hf => encoded_length f.address f.bus (h f hf)
  obtain ⟨c, hs⟩ := step_canrecv_ok hl hc hp hi (by rw [hbuf, size]; omega)
  rw [hbuf, received_flatMap_encoded h, receiveResult_map_some] at hs
  exact ⟨_, hs, rfl, rfl⟩

end Sys2Proof.Machine
end

section
/-! SUPPORT. SENDMANY (41_bus_multiplexer.md R140 to R144): the validation, the registers its encoding writes, and the writes
that follow, batched and one by one. -/

namespace Sys2Proof.Machine

/-! ### Validation -/

theorem withinLimit_of_within {limit : Option Nat} {n : Nat} (h : Spec.within limit n) : withinLimit limit n = true := by
  cases limit with
  | none => rfl
  | some m => exact decide_eq_true (h m rfl)

/-- SENDMANY with a payload of more than 8 bytes. -/
theorem exec_sendmany_of_long {fs : List TxFrame} {s : State} (hw : Spec.within s.cfg.txFramesMax fs.length)
    (long : ∃ f ∈ fs, 8 < f.data.length) :
    exec (.sendmany fs) s = .next (raiseError .callerError (s.mapRegs fun r => { r with frames := fs })) := by
  have refused : fs.any (fun f => payloadTooLong f.data) = true := by simpa [payloadTooLong] using long
  simp only [exec, execSendmany, withinLimit_of_within hw, refused, if_true]

/-- SENDMANY whose payloads all fit goes on to its writes. -/
theorem exec_sendmany_of_fits {fs : List TxFrame} {s : State} (hw : Spec.within s.cfg.txFramesMax fs.length)
    (fits : ∀ f ∈ fs, f.data.length ≤ 8) :
    exec (.sendmany fs) s = .next (sendSlots (s.mapRegs (encodeFrames fs))) := by
  have passed : fs.any (fun f => payloadTooLong f.data) = false := by simpa [payloadTooLong] using fits
  simp only [exec, execSendmany, withinLimit_of_within hw, passed, if_true, Bool.false_eq_true, if_false]

/-! ### Encoding -/

/-- The registers ENCODE and SENDMANY's encoding loop write, taken from `c` (R142; log entry 13). -/
def Regs.withEncoded (r c : Regs) : Regs :=
  { r with addr := c.addr, data := c.data, busr := c.busr, w1 := c.w1, w2 := c.w2, slot := c.slot, idx := c.idx }

/-- The encoding loop leaves the registers of the other units alone. -/
theorem encodeLoop_regs (i : Nat) (fs : List TxFrame) (r : Regs) :
    (encodeLoop i fs r).1 = r.withEncoded (encodeLoop i fs r).1 := by
  induction fs generalizing i r with
  | nil => rfl
  | cons f fs ih => exact ih _ _

/-- The slots of legal frames, by the model and in plain arithmetic. -/
theorem flatMap_encodeSlot {fs : List TxFrame} (fits : ∀ f ∈ fs, f.data.length ≤ 8) :
    fs.flatMap (fun f => (encodeSlot f.address f.data f.bus).toList) =
      fs.flatMap (fun f => Spec.encoded f.address f.data f.bus) :=
  List.flatMap_congr fun f hf => encodeSlot_toList _ _ (fits f hf)

/-- After the encoding TXBUF holds the slots in input order, and the registers of the other units are as before. -/
theorem mapRegs_encodeFrames {fs : List TxFrame} (fits : ∀ f ∈ fs, f.data.length ≤ 8) (s : State) :
    ∃ c : Regs, s.mapRegs (encodeFrames fs) = { s with regs :=
      { s.regs.withEncoded c with frames := fs, txbuf := fs.flatMap (fun f => Spec.encoded f.address f.data f.bus) } } := by
  refine ⟨(encodeLoop 0 fs { s.regs with frames := fs }).1, ?_⟩
  rw [← flatMap_encodeSlot fits, ← encodeFrames_txbuf fs s.regs]
  exact congrArg (fun r : Regs => { s with regs := { r with txbuf := (encodeFrames fs s.regs).txbuf } })
    (encodeLoop_regs 0 fs { s.regs with frames := fs })

/-! ### Writing -/

theorem sendSlots_of_batch {s : State} (hb : s.cfg.batch = true) :
    sendSlots s = beginWrretry 0 .canTx s.regs.txbuf s := if_pos hb

theorem sendSlots_of_unbatched {s : State} (hb : s.cfg.batch = false) : sendSlots s = sendFrom 0 s :=
  if_neg (Bool.eq_false_iff.1 hb)

theorem sendFrom_of_lt {j : Nat} {s : State} (hj : j < s.regs.frames.length) :
    sendFrom j s =
      beginWrretry j .canTx (sliceAt s.regs.txbuf j) (s.mapRegs fun r => { r with idx := BitVec.ofNat 9 j }) := if_pos hj

theorem sendFrom_of_le {j : Nat} {s : State} (hj : s.regs.frames.length ≤ j) : sendFrom j s = finish .nothing s :=
  if_neg (Nat.not_lt.2 hj)

theorem sendWritten_of_batch {s : State} (hb : s.cfg.batch = true) (j : Nat) : sendWritten j s = finish .nothing s :=
  if_pos hb

theorem sendWritten_of_unbatched {s : State} (hb : s.cfg.batch = false) (j : Nat) :
    sendWritten j s = sendFrom (j + 1) s := if_neg (Bool.eq_false_iff.1 hb)

/-- The writing step delivers no response, or the OK of a SENDMANY that has nothing to write. -/
theorem sendSlots_rsps (s : State) : (sendSlots s).rsps = s.rsps ∨ (sendSlots s).rsps = s.rsps ++ [.ok .nothing] := by
  cases hb : s.cfg.batch with
  | true => exact .inl (by rw [sendSlots_of_batch hb]; rfl)
  | false =>
    rw [sendSlots_of_unbatched hb]
    rcases sendFrom_cases 0 s with ⟨-, he⟩ | ⟨-, he⟩ <;> rw [he]
    · exact .inl rfl
    · exact .inr rfl

/-- SENDMANY with BATCH true issues one write of TXBUF (R143). -/
theorem exec_sendmany_batched {fs : List TxFrame} {s : State} (hw : Spec.within s.cfg.txFramesMax fs.length)
    (fits : ∀ f ∈ fs, f.data.length ≤ 8) (hb : s.cfg.batch = true) :
    exec (.sendmany fs) s =
      .next (beginWrretry 0 .canTx (encodeFrames fs s.regs).txbuf (s.mapRegs (encodeFrames fs))) :=
  (exec_sendmany_of_fits hw fits).trans (congrArg _ (sendSlots_of_batch hb))

/-- SENDMANY with BATCH false goes to its write loop at slot 0 (R143). -/
theorem exec_sendmany_unbatched {fs : List TxFrame} {s : State} (hw : Spec.within s.cfg.txFramesMax fs.length)
    (fits : ∀ f ∈ fs, f.data.length ≤ 8) (hb : s.cfg.batch = false) :
    exec (.sendmany fs) s = .next (sendFrom 0 (s.mapRegs (encodeFrames fs))) :=
  (exec_sendmany_of_fits hw fits).trans (congrArg _ (sendSlots_of_unbatched hb))

/-- A write of SENDMANY answered Ok, whatever count it reports (R70). -/
theorem step_sendmany_ok {j n : Nat} {ep : WriteEndpoint} {buf : Bytes} {rest : List Event} {s : State}
    (hl : s.latch = none) (hc : s.conn = .connected) (hp : s.phase = .writing (.smWr j) ep buf)
    (hi : s.inbox = .answer (.ok n) :: rest) : step s = .next (sendWritten j { s with inbox := rest }) :=
  step_write hl hc hp hi

/-- With BATCH false one write answered Ok leads to the next turn of the write loop. -/
theorem step_sendFrom {j n : Nat} {rest : List Event} {s : State} (hj : j < s.regs.frames.length)
    (hb : s.cfg.batch = false) (hl : s.latch = none) (hc : s.conn = .connected) (hi : s.inbox = .answer (.ok n) :: rest) :
    step (sendFrom j s) = .next (sendFrom (j + 1) { s with
      phase := .writing (.smWr j) .canTx (sliceAt s.regs.txbuf j)
      inbox := rest
      calls := s.calls ++ [.write .canTx (sliceAt s.regs.txbuf j)]
      regs := { s.regs with idx := BitVec.ofNat 9 j, att := 1 } }) := by
  rw [sendFrom_of_lt hj, ← sendWritten_of_unbatched (by exact hb)]
  exact step_sendmany_ok hl hc rfl hi

/-- With BATCH false and every write answered Ok the write loop sends the slices of TXBUF from `j` on, one call each, and
ends OK. -/
theorem run_sendFrom {counts : List Nat} {rest : List Event} {j : Nat} {s : State}
    (hn : s.regs.frames.length = j + counts.length) (hb : s.cfg.batch = false) (hl : s.latch = none)
    (hc : s.conn = .connected) (hi : s.inbox = counts.map (fun n => Event.answer (.ok n)) ++ rest) :
    ∃ r : Regs, Host.Core.run core counts.length (sendFrom j s) = .next (finish .nothing { s with
      inbox := rest
      calls := s.calls ++ (List.range' j counts.length).map (fun i => Call.write .canTx (sliceAt s.regs.txbuf i))
      regs := r }) := by
  induction counts generalizing j s with
  | nil =>
    obtain rfl : s.inbox = rest := hi
    have ended : sendFrom j s = finish .nothing { s with calls := s.calls ++ [] } := by
      rw [sendFrom_of_le (j := j) (Nat.le_of_eq hn), List.append_nil]
    exact ⟨s.regs, congrArg _ ended⟩
  | cons n counts ih =>
    rw [List.length_cons] at hn
    have written := run_succ (k := counts.length) (step_sendFrom (j := j) (by omega) hb hl hc hi)
    rw [List.length_cons, List.range'_succ, List.map_cons, List.append_cons]
    refine Exists.imp (fun r => written.trans) (ih ?_ ?_ ?_ ?_ ?_)
    exacts [hn.trans (Nat.add_right_comm j counts.length 1), hb, hl, hc, rfl]

/-! ### The statements -/

/-- Settles O15: the validation stands before the writing step, and that step raises no error. -/
theorem sendManyValidatesBeforeTraffic : Obligations.SendManyValidatesBeforeTraffic :=
  fun _ _ hw => ⟨exec_sendmany_of_long hw, fun fits => ⟨_, exec_sendmany_of_fits hw fits, sendSlots_rsps _⟩⟩

/-- Settles O16: one WRRETRY of TXBUF, whose end is SENDMANY's end. -/
theorem sendManyBatchedIssuesOneWrite : Obligations.SendManyBatchedIssuesOneWrite := by
  constructor
  · intro fs s hw fits hb
    obtain ⟨c, captured⟩ := mapRegs_encodeFrames fits s
    refine ⟨_, c, rfl, ?_⟩
    rw [exec_sendmany_batched hw fits hb, encodeFrames_txbuf, flatMap_encodeSlot fits, captured]
    rfl
  · intro j n ep buf rest s hb hl hc hp hi
    rw [step_sendmany_ok hl hc hp hi, sendWritten_of_batch (by exact hb)]
    rfl

/-- Settles O17: the write loop begins at slot 0, or ends at once. -/
theorem sendManyUnbatchedStartsWithSlotZero : Obligations.SendManyUnbatchedStartsWithSlotZero := by
  intro fs s hw fits hb
  constructor
  · rintro f rest rfl
    obtain ⟨c, captured⟩ := mapRegs_encodeFrames fits s
    have first := sliceAt_append_zero (encoded_length f.address f.bus (fits f List.mem_cons_self))
      (rest.flatMap fun f => Spec.encoded f.address f.data f.bus)
    refine ⟨c, ?_⟩
    rw [exec_sendmany_unbatched hw fits hb, captured, sendFrom_of_lt (Nat.zero_lt_succ _), List.flatMap_cons, first]
    rfl
  · rintro rfl
    exact exec_sendmany_unbatched hw fits hb

/-- Settles O18: the command's step goes to the write loop at slot 0, and the slices of TXBUF are the slots. -/
theorem sendManyUnbatchedWritesEverySlotInOrder : Obligations.SendManyUnbatchedWritesEverySlotInOrder := by
  intro fs counts bytes rest s hw fits hb hp hl hc hn hd hi
  have taken := (step_command hl hp hi hd).trans (exec_sendmany_unbatched hw fits hb)
  have slots := congrArg (List.map (Call.write .canTx))
    (sliceAt_flatMap fun f hf => encoded_length f.address f.bus (fits f hf))
  rw [List.map_map, List.map_map, ← hn, List.range_eq_range'] at slots
  obtain ⟨r, written⟩ := run_sendFrom (j := 0) (rest := rest) (counts := counts)
    (s := State.mapRegs { s with inbox := counts.map (fun n => .answer (.ok n)) ++ rest } (encodeFrames fs))
    (by simp [hn]) hb hl hc rfl
  rw [← hn]
  refine ⟨_, (run_succ taken).trans written, rfl, rfl, ?_, rfl, rfl, rfl, rfl, rfl, rfl⟩
  rw [finish_calls, mapRegs_regs, encodeFrames_txbuf, flatMap_encodeSlot fits]
  exact congrArg (s.calls ++ ·) slots

end Sys2Proof.Machine
end

section
/-! SUPPORT. TransportRetry (42_transport_retry.md R161 to R167): the suspension points whose call is repeated, the state
after any number of transient answers there, and the answers that are never retried. -/

namespace Sys2Proof.Machine

/-! ### The limit -/

theorem retryExhausted_of_le {limit : Option Nat} {m att : Nat} (hm : limit = some m) (h : m ≤ att) :
    retryExhausted limit att = true := by
  subst hm
  exact decide_eq_true h

theorem not_retryExhausted_of_lt {limit : Option Nat} {att : Nat} (h : ∀ m, limit = some m → att < m) :
    retryExhausted limit att = false := by
  cases limit with
  | none => rfl
  | some m => exact decide_eq_false (Nat.not_le.2 (h m rfl))

/-! ### One transient answer -/

/-- At `p` the block waits inside WRRETRY or RDRETRY for the answer to `c` (R161, R162). -/
def Phase.retries (p : Phase) (c : Call) : Prop :=
  (∃ j ep buf, p = .writing (.smWr j) ep buf ∧ c = .write ep buf) ∨
    ∃ ep max, p = .reading .crRd ep max ∧ c = .read ep max

/-- A transient answer there ends the operation when the limit is used up, and else repeats the call (R163, R164). -/
theorem step_transient {c : Call} {rest : List Event} {s : State} (hl : s.latch = none) (hc : s.conn = .connected)
    (hu : s.upcoming = .answer .transientIOError :: rest) (hp : s.phase.retries c) :
    step s = .next (if retryExhausted s.cfg.retryLimit s.regs.att then raiseError .transientIOError { s with inbox := rest }
      else { s with inbox := rest, calls := s.calls ++ [c], regs := { s.regs with att := s.regs.att + 1 } }) := by
  rw [step_upcoming hl hu]
  obtain ⟨j, ep, buf, hp, rfl⟩ | ⟨ep, max, hp, rfl⟩ := hp
  · simp only [handleEvent, resume, hp, hc, Answer.under, resumeWrite, retryWrite, issueWrite, State.mapRegs]
  · simp only [handleEvent, resume, hp, hc, Answer.under, resumeRead, retryRead, issueRead, State.mapRegs]

/-! ### Many transient answers -/

/-- `s` gone to wait at `p` for its call of `c` number `k + 1`, behind `k` transient answers. -/
def State.retried (s : State) (p : Phase) (c : Call) (k : Nat) : State :=
  { s with phase := p, calls := s.calls ++ List.replicate (k + 1) c, regs := { s.regs with att := k + 1 } }

section
variable {p : Phase} {c : Call} {k : Nat} {rest : List Event} {s : State}

/-- WRRETRY begins with the first call (R161), and RDRETRY and CANRECV with theirs (R162). -/
theorem exec_wrretry (ep : WriteEndpoint) (buf : Bytes) (s : State) : exec (.wrretry ep buf) s =
    .next (s.retried (.writing (.smWr s.regs.idx.toNat) ep buf) (.write ep buf) 0) := rfl

theorem exec_rdretry (ep : ReadEndpoint) (max : Nat) (s : State) : exec (.rdretry ep max) s =
    .next (s.retried (.reading .crRd ep max) (.read ep max) 0) := rfl

theorem exec_canrecv (s : State) : exec .canrecv s =
    .next (s.retried (.reading .crRd .canRx 4096) (.read .canRx 4096) 0) := rfl

/-- Below the limit one more transient answer makes one more call. -/
theorem step_retried (hl : s.latch = none) (hc : s.conn = .connected) (hp : p.retries c)
    (hlim : ∀ m, s.cfg.retryLimit = some m → k + 1 < m) (hu : s.upcoming = .answer .transientIOError :: rest) :
    step (s.retried p c k) = .next ({ s with inbox := rest }.retried p c (k + 1)) := by
  have goesOn : retryExhausted (s.retried p c k).cfg.retryLimit (s.retried p c k).regs.att = false :=
    not_retryExhausted_of_lt hlim
  have oneMore : (s.retried p c k).calls ++ [c] = s.calls ++ List.replicate (k + 2) c := by
    rw [List.replicate_succ' (n := k + 1), ← List.append_assoc]
    rfl
  rw [step_transient (s := s.retried p c k) hl hc hu hp, goesOn, oneMore]
  rfl

/-- At the limit it ends the operation. -/
theorem step_retried_exhausted (hl : s.latch = none) (hc : s.conn = .connected) (hp : p.retries c)
    (hlim : s.cfg.retryLimit = some (k + 1)) (hu : s.upcoming = .answer .transientIOError :: rest) :
    step (s.retried p c k) = .next (raiseError .transientIOError ({ s with inbox := rest }.retried p c k)) :=
  (step_transient (s := s.retried p c k) hl hc hu hp).trans
    (congrArg _ (if_pos (retryExhausted_of_le hlim (Nat.le_refl _))))

/-- `k` transient answers that `inbox` lists make `k` more calls (R163). -/
theorem run_retried (hl : s.latch = none) (hc : s.conn = .connected) (hp : p.retries c) {i : Nat}
    (hlim : ∀ m, s.cfg.retryLimit = some m → i + k < m)
    (hi : s.inbox = List.replicate k (.answer .transientIOError) ++ rest) :
    Host.Core.run core k (s.retried p c i) = .next ({ s with inbox := rest }.retried p c (i + k)) := by
  induction k generalizing s i with
  | zero =>
    obtain rfl : s.inbox = rest := hi
    rfl
  | succ k ih =>
    rw [← Nat.add_assoc, Nat.add_right_comm i k 1] at hlim ⊢
    have next : s.upcoming = .answer .transientIOError :: (List.replicate k (.answer .transientIOError) ++ rest) :=
      upcoming_of_cons s hi
    have first := step_retried (k := i) hl hc hp (fun m hm => by have := hlim m hm; omega) next
    refine (run_succ first).trans (ih ?_ ?_ ?_ ?_)
    exacts [hl, hc, hlim, rfl]

/-- The same from the first call on. -/
theorem run_begun (hl : s.latch = none) (hc : s.conn = .connected) (hp : p.retries c)
    (hlim : ∀ m, s.cfg.retryLimit = some m → k < m)
    (hi : s.inbox = List.replicate k (.answer .transientIOError) ++ rest) :
    Host.Core.run core k (s.retried p c 0) = .next ({ s with inbox := rest }.retried p c k) := by
  have run := run_retried (i := 0) hl hc hp (by rwa [Nat.zero_add]) hi
  rwa [Nat.zero_add] at run

/-- With no limit and transient answers for ever, any number of steps makes that many more calls (R167). -/
theorem run_retried_recurring (hl : s.latch = none) (hc : s.conn = .connected) (hp : p.retries c) (i : Nat)
    (hlim : s.cfg.retryLimit = none) (hi : s.inbox = []) (hr : s.recurring = [.answer .transientIOError]) :
    Host.Core.run core k (s.retried p c i) = .next (s.retried p c (i + k)) := by
  induction k generalizing i with
  | zero => rfl
  | succ k ih =>
    have first := step_retried (k := i) hl hc hp (fun m hm => by simp [hlim] at hm) ((upcoming_of_nil s hi).trans hr)
    rw [← hi] at first
    rw [← Nat.add_assoc, Nat.add_right_comm i k 1]
    exact (run_succ first).trans (ih (i + 1))

/-- With the limit `k + 1`, that many transient answers end the operation after that many calls (R164). -/
theorem run_retried_exhausted (hl : s.latch = none) (hc : s.conn = .connected) (hp : p.retries c)
    (hlim : s.cfg.retryLimit = some (k + 1))
    (hi : s.inbox = List.replicate (k + 1) (.answer .transientIOError) ++ rest) :
    Host.Core.run core (k + 1) (s.retried p c 0) =
      .next (raiseError .transientIOError ({ s with inbox := rest }.retried p c k)) := by
  rw [List.replicate_succ', List.append_assoc, List.singleton_append] at hi
  have below := run_begun hl hc hp (fun m hm => by simp [hlim] at hm; omega) hi
  have last := step_retried_exhausted (s := { s with inbox := .answer .transientIOError :: rest }) hl hc hp hlim rfl
  exact (run_add below).trans (run_succ last)

end

/-! ### The end of a logical call -/

/-- A logical write answered Ok ends, and the operation ends or goes on to its next logical write. -/
theorem sendWritten_ends_or_writes (j : Nat) (s : State) :
    ((sendWritten j s).phase = .idle ∧ (sendWritten j s).calls = s.calls) ∨
      ∃ bytes, (sendWritten j s).phase = .writing (.smWr (j + 1)) .canTx bytes ∧
        (sendWritten j s).calls = s.calls ++ [.write .canTx bytes] := by
  cases hb : s.cfg.batch with
  | true =>
    rw [sendWritten_of_batch hb]
    exact .inl ⟨rfl, rfl⟩
  | false =>
    rw [sendWritten_of_unbatched hb]
    rcases sendFrom_cases (j + 1) s with ⟨-, he⟩ | ⟨-, he⟩ <;> rw [he]
    · exact .inr ⟨_, rfl, rfl⟩
    · exact .inl ⟨rfl, rfl⟩

/-- CANRECV ends with the bytes of its read. -/
theorem receiveBytes_ends (bytes : Bytes) (s : State) :
    (receiveBytes bytes s).phase = .idle ∧ (receiveBytes bytes s).calls = s.calls := by
  obtain ⟨c, hr⟩ := receiveBytes_eq bytes s
  rw [hr]
  exact ⟨rfl, rfl⟩

/-! ### Answers that are never retried -/

/-- A fatal answer and the kind it stands for (60_exceptions.md R230). -/
def Answer.fatal (a : Answer) (kind : ErrorKind) : Prop :=
  (a = .connectionError ∧ kind = .connectionError) ∨ (a = .otherTransportError ∧ kind = .otherTransportError)

/-- A fatal answer ends whatever operation waits for it. -/
theorem step_fatal {a : Answer} {kind : ErrorKind} {rest : List Event} {s : State} (hl : s.latch = none)
    (hc : s.conn = .connected) (hi : s.inbox = .answer a :: rest) (ha : a.fatal kind) (hp : s.phase ≠ .idle) :
    step s = .next (raiseError kind { s with inbox := rest }) := by
  cases h : s.phase with
  | idle => exact absurd h hp
  | writing p ep buf =>
    rw [step_write hl hc h hi]
    obtain ⟨rfl, rfl⟩ | ⟨rfl, rfl⟩ := ha <;> rfl
  | reading p ep max =>
    rw [step_read hl hc h hi]
    obtain ⟨rfl, rfl⟩ | ⟨rfl, rfl⟩ := ha <;> rfl

/-- A transient answer to a read outside RDRETRY is an error like the others (R165). -/
theorem resumeRead_transient {p : ReadPoint} (hp : p ≠ .crRd) (ep : ReadEndpoint) (max : Nat) (s : State) :
    resumeRead p ep max .transientIOError s = .next (raiseError .transientIOError s) := by
  cases p with
  | crRd => exact absurd rfl hp
  | ksDrain | ksEcho k | krHdr | krBody => rfl

/-! ### The statements -/

/-- Settles O24: the calls are counted by `run_begun` and `run_retried_recurring`, and the next answer ends the logical call. -/
theorem transientAnswersCostOneCallEach : Obligations.TransientAnswersCostOneCallEach := by
  constructor
  · intro k n rest s hlim hl hc hi
    refine ⟨fun ep buf => ?_, fun ep max _ hm => ?_⟩
    · have run := run_begun hl hc (.inl ⟨s.regs.idx.toNat, ep, buf, rfl, rfl⟩) hlim hi
      exact ⟨_, _, _, exec_wrretry ep buf s, run, step_sendmany_ok hl hc rfl rfl, rfl, sendWritten_ends_or_writes _ _⟩
    · have run := run_begun hl hc (.inr ⟨ep, max, rfl, rfl⟩) hlim hi
      exact ⟨_, _, _, exec_rdretry ep max s, run, step_read_ok hl hc rfl rfl hm, rfl, receiveBytes_ends _ _⟩
  · intro k s hlim hl hc hi hr
    refine ⟨fun ep buf => ⟨_, exec_wrretry ep buf s, ?_⟩, fun ep max _ => ⟨_, exec_rdretry ep max s, ?_⟩⟩
    · rw [run_retried_recurring hl hc (.inl ⟨_, ep, buf, rfl, rfl⟩) 0 hlim hi hr, Nat.zero_add]
      rfl
    · rw [run_retried_recurring hl hc (.inr ⟨ep, max, rfl, rfl⟩) 0 hlim hi hr, Nat.zero_add]
      rfl

/-- Settles O25: all three operations begin as `State.retried` with one call, and a step's own case is the limit's. -/
theorem boundedRetryGivesUp : Obligations.BoundedRetryGivesUp := by
  constructor
  · intro n rest i c s hlim hl hc hi begins
    suffices ∃ p : Phase, p.retries c ∧ exec i s = .next (s.retried p c 0) by
      obtain ⟨p, hp, he⟩ := this
      exact ⟨_, he, run_retried_exhausted hl hc hp hlim hi⟩
    obtain ⟨ep, buf, rfl, rfl⟩ | ⟨ep, max, rfl, -, rfl⟩ | ⟨rfl, rfl⟩ := begins
    · exact ⟨_, .inl ⟨_, ep, buf, rfl, rfl⟩, exec_wrretry ep buf s⟩
    · exact ⟨_, .inr ⟨ep, max, rfl, rfl⟩, exec_rdretry ep max s⟩
    · exact ⟨_, .inr ⟨_, _, rfl, rfl⟩, exec_canrecv s⟩
  · intro m rest c s hlim hl hc hi hp
    rw [step_transient hl hc (upcoming_of_cons s hi) hp]
    refine ⟨fun usedUp => ?_, fun left => ?_⟩
    · rw [retryExhausted_of_le hlim usedUp]
      rfl
    · rw [not_retryExhausted_of_lt (by simpa [hlim] using left)]
      rfl

/-- Settles O26: at both suspension points the block is not idle. -/
theorem canErrorsEndTheOperation : Obligations.CanErrorsEndTheOperation := by
  intro a kind rest s hl hc hi ha waits
  refine step_fatal hl hc hi ha ?_
  obtain ⟨j, ep, buf, hp⟩ | ⟨ep, max, hp⟩ := waits <;> rw [hp] <;> nofun

/-- Settles O23: the whole next state is the definition's own. -/
theorem retryUnitsIssueTheirCall : Obligations.RetryUnitsIssueTheirCall :=
  ⟨exec_wrretry, fun ep max s _ => exec_rdretry ep max s⟩

/-- Settles O39: a transient answer is an error at every kline suspension point, and the others are at any. -/
theorem klineErrorsAreNotRetried : Obligations.KlineErrorsAreNotRetried := by
  rintro a kind rest s hl hc hi (⟨rfl, rfl⟩ | fatal) waits
  · obtain ⟨k, ep, buf, hp⟩ | ⟨p, ep, max, hp, hne⟩ := waits
    · exact step_write hl hc hp hi
    · exact (step_read hl hc hp hi).trans (resumeRead_transient hne ep max _)
  · refine step_fatal hl hc hi fatal ?_
    obtain ⟨k, ep, buf, hp⟩ | ⟨p, ep, max, hp, -⟩ := waits <;> rw [hp] <;> nofun

end Sys2Proof.Machine
end

section
/-! SUPPORT. The inbound sides as their readers see them (10_state.md R32): in the canonical form what waits on each side is
all there is, so a side that is filled and read empty leaves no trace. -/

namespace Sys2Proof.Machine

theorem Memory.waiting_cons_self (e : ReadEndpoint) (q : Bytes) (m : Memory) : Memory.waiting ((e, q) :: m) e = q :=
  if_pos rfl

theorem Memory.waiting_cons_ne {e ep : ReadEndpoint} (h : e ≠ ep) (q : Bytes) (m : Memory) :
    Memory.waiting ((e, q) :: m) ep = m.waiting ep := if_neg h

/-- No side below the first one listed holds anything. -/
theorem Memory.head_key_le {e ep : ReadEndpoint} {q : Bytes} {m : Memory} (hw : Memory.wf ((e, q) :: m) = true)
    (hq : Memory.waiting ((e, q) :: m) ep ≠ []) : readKey e ≤ readKey ep := by
  obtain ⟨-, above, -⟩ := (Memory.wf_cons e q m).1 hw
  by_contra hlt
  refine hq (Memory.waiting_of_above (k := readKey ep) (fun p hp => ?_) le_rfl)
  rcases List.mem_cons.1 hp with rfl | hp
  · exact not_le.1 hlt
  · exact (not_le.1 hlt).trans (above p hp)

/-- In the canonical form the bytes that wait on each side are the whole memory. -/
theorem Memory.eq_of_waiting_eq {m m' : Memory} (hm : m.wf = true) (hm' : m'.wf = true)
    (h : ∀ ep, m.waiting ep = m'.waiting ep) : m = m' := by
  induction m generalizing m' with
  | nil =>
    cases m' with
    | nil => rfl
    | cons p' m' =>
      obtain ⟨listed, -, -⟩ := (Memory.wf_cons p'.1 p'.2 m').1 hm'
      exact absurd ((Memory.waiting_cons_self ..).symm.trans (h p'.1).symm) listed
  | cons p m ih =>
    obtain ⟨e, q⟩ := p
    obtain ⟨listed, above, wf⟩ := (Memory.wf_cons e q m).1 hm
    cases m' with
    | nil => exact absurd ((Memory.waiting_cons_self ..).symm.trans (h e)) listed
    | cons p' m' =>
      obtain ⟨e', q'⟩ := p'
      obtain ⟨listed', above', wf'⟩ := (Memory.wf_cons e' q' m').1 hm'
      have le' : readKey e' ≤ readKey e := Memory.head_key_le hm' (by rwa [← h, Memory.waiting_cons_self])
      have le : readKey e ≤ readKey e' := Memory.head_key_le hm (by rwa [h, Memory.waiting_cons_self])
      obtain rfl : e = e' := readKey_inj (le.antisymm le')
      have heads := h e
      rw [Memory.waiting_cons_self, Memory.waiting_cons_self] at heads
      have tails : m = m' := ih wf wf' fun ep => by
        by_cases he : e = ep
        · rw [← he, Memory.waiting_of_above above le_rfl, Memory.waiting_of_above above' le_rfl]
        · rw [← Memory.waiting_cons_ne he q, h, Memory.waiting_cons_ne he]
      rw [heads, tails]

/-- Setting an empty side to nothing leaves the memory as it was. -/
theorem Memory.put_nil_of_waiting_nil {m : Memory} {ep : ReadEndpoint} (hw : m.wf = true) (hq : m.waiting ep = []) :
    m.put ep [] = m := by
  refine Memory.eq_of_waiting_eq (Memory.put_wf _ _ hw) hw fun e => ?_
  by_cases he : e = ep
  · rw [he, Memory.waiting_put_same _ _ hw, hq]
  · exact Memory.waiting_put_other _ he

/-- So does setting it to bytes and then to nothing. -/
theorem Memory.put_put_nil_of_waiting_nil {m : Memory} {ep : ReadEndpoint} (hw : m.wf = true) (hq : m.waiting ep = [])
    (q : Bytes) : (m.put ep q).put ep [] = m := by
  have hw' := Memory.put_wf ep q hw
  refine Memory.eq_of_waiting_eq (Memory.put_wf _ _ hw') hw fun e => ?_
  by_cases he : e = ep
  · rw [he, Memory.waiting_put_same _ _ hw', hq]
  · rw [Memory.waiting_put_other _ he, Memory.waiting_put_other _ he]

/-- Bytes that arrive on an empty inbound side are what a read of as many brings, and leave the memory as it was. -/
theorem arrived_then_read {s : State} {ep : ReadEndpoint} (hw : s.inbound.wf = true) (hq : s.inbound.waiting ep = [])
    (c : Bytes) :
    ((s.arrive ep c).inbound.waiting ep).take c.length = c ∧
      ((s.arrive ep c).consume ep c.length).inbound = s.inbound := by
  have waits : (s.arrive ep c).inbound.waiting ep = c := by
    rw [arrive_inbound, Memory.waiting_put_same _ _ hw, hq, List.nil_append]
  refine ⟨by rw [waits, List.take_length], ?_⟩
  rw [consume_inbound, waits, List.drop_length]
  exact Memory.put_put_nil_of_waiting_nil hw hq _

end Sys2Proof.Machine
end

section
/-! SUPPORT. KSEND (43_kline_checksum_codec.md R175 to R184; 44_kline_echo_verifier.md R196 to R198): KBUF and its cut into
chunks, the drain, a chunk and its echo, and the run in which every chunk is echoed as sent. -/

namespace Sys2Proof.Machine

/-! ### KBUF and its chunks -/

theorem kbufOf_eq (m : Bytes) (cs : Bool) : kbufOf m cs = Spec.kbuf m cs := by rw [kbufOf, checksum_eq, Spec.kbuf]

theorem chunkCount_eq_zero_iff {buf : Bytes} : chunkCount buf.length = 0 ↔ buf = [] := by
  rw [← List.length_eq_zero_iff, chunkCount]
  omega

/-- The cuts at multiples of 15, put together, are the buffer up to the last cut (R178, R184). -/
theorem flatten_map_chunk (buf : Bytes) (n : Nat) :
    ((List.range n).map (Spec.chunk buf)).flatten = buf.take (15 * n) := by
  induction n with
  | zero => rfl
  | succ n ih =>
    rw [List.range_succ, List.map_append, List.flatten_append, ih, Nat.mul_succ, List.take_add]
    simp [Spec.chunk]

theorem flatten_chunks (buf : Bytes) : (Spec.chunks buf).flatten = buf := by
  rw [Spec.chunks, flatten_map_chunk]
  exact List.take_of_length_le (by omega)

/-! ### The drain -/

/-- The registers after step 2 and the count of chunks (R177, R178), in plain arithmetic. -/
def Regs.withKbuf (r : Regs) : Regs :=
  { r with
    csum := if r.csen then BitVec.ofNat 8 (Spec.byteSum r.kmsg) else r.csum
    kbuf := Spec.kbuf r.kmsg r.csen
    nch := ((Spec.kbuf r.kmsg r.csen).length + 14) / 15 }

theorem chunkFrom_of_lt {k : Nat} {s : State} (hk : k < s.regs.nch) :
    chunkFrom k s = writeChunk k s.regs.busr (chunkAt s.regs.kbuf k) s := if_pos hk

theorem chunkFrom_of_le {k : Nat} {s : State} (hk : s.regs.nch ≤ k) : chunkFrom k s = finish .nothing s :=
  if_neg (Nat.not_lt.2 hk)

theorem exec_ksend {m : Bytes} {b : Byte} {cs : Bool} {s : State} (hw : Spec.within s.cfg.ksendMax m.length) :
    exec (.ksend m b cs) s = .next (beginDrain b (s.mapRegs fun r => { r with kmsg := m, csen := cs })) := by
  simp only [exec, execKsend, withinLimit_of_within hw, if_true]

/-- A drain read answered Ok: its bytes are gone, and `drainGot` decides on them alone (R176). -/
theorem step_drain_ok {n max : Nat} {ep : ReadEndpoint} {rest : List Event} {s : State} (hl : s.latch = none)
    (hc : s.conn = .connected) (hp : s.phase = .reading .ksDrain ep max) (hi : s.inbox = .answer (.ok n) :: rest)
    (hm : ((s.inbound.waiting ep).take n).length ≤ max) :
    step s = .next (drainGot ((s.inbound.waiting ep).take n) (State.consume { s with inbox := rest } ep n)) :=
  step_read_ok hl hc hp hi hm

/-- A read at the drain's own suspension point is made again: one call more and nothing else (R176). -/
theorem drainGot_of_ne_nil {bytes : Bytes} {s : State} (h : bytes ≠ [])
    (hp : s.phase = .reading .ksDrain (.klRx s.regs.busr) s.cfg.klDrainMax) :
    drainGot bytes s = { s with calls := s.calls ++ [.read (.klRx s.regs.busr) s.cfg.klDrainMax] } := by
  rw [drainGot, if_neg h, drainRead, issueRead, ← hp]

/-- A read that brought nothing ends the drain: KBUF, NCH and the chunk loop follow (R175, R177, R178). -/
theorem drainGot_nil (s : State) : drainGot [] s = chunkFrom 0 (s.mapRegs Regs.withKbuf) := by
  rw [drainGot, if_pos rfl]
  simp only [afterDrain, buildKbuf, kbufOf_eq, checksum_eq]
  rfl

/-- With nothing on the inbound side the first drain read ends the drain (decision D13). -/
theorem step_drain_silent {n max : Nat} {ep : ReadEndpoint} {rest : List Event} {s : State} (hl : s.latch = none)
    (hc : s.conn = .connected) (hp : s.phase = .reading .ksDrain ep max) (hi : s.inbox = .answer (.ok n) :: rest)
    (hw : s.inbound.wf = true) (hq : s.inbound.waiting ep = []) :
    step s = .next (chunkFrom 0 (State.mapRegs { s with inbox := rest } Regs.withKbuf)) := by
  have answered := step_drain_ok hl hc hp hi (by rw [hq, List.take_nil]; exact Nat.zero_le _)
  rw [State.consume, hq, List.take_nil, List.drop_nil, Memory.put_nil_of_waiting_nil hw hq, drainGot_nil] at answered
  exact answered

/-! ### A chunk and its echo -/

/-- RDEXACT with bytes to collect asks for all of them (R197). -/
theorem rdexactStart_of_pos {point : ReadPoint} {ep : ReadEndpoint} {n : Nat} {done : State → State} {s : State}
    (h : 1 ≤ n) (hn : n ≤ 255) :
    rdexactStart point ep (BitVec.ofNat 8 n) done s =
      issueRead point ep n (s.mapRegs fun r => { r with acc := [], need := BitVec.ofNat 8 n }) := by
  have need : (BitVec.ofNat 8 n).toNat = n := by
    rw [BitVec.toNat_ofNat]
    omega
  have wanted : BitVec.ofNat 8 n ≠ 0 := fun h0 => by
    have : n = 0 := need.symm.trans (congrArg BitVec.toNat h0)
    omega
  rw [rdexactStart, rdexactLoop, mapRegs_regs, if_neg wanted, need]

/-- A chunk write answered Ok, whatever count it reports (R70): the echo of the chunk is asked for (R175, R179). -/
theorem step_chunk_ok {k n : Nat} {ep : WriteEndpoint} {buf : Bytes} {rest : List Event} {s : State} (hl : s.latch = none)
    (hc : s.conn = .connected) (hp : s.phase = .writing (.ksWr k) ep buf) (hi : s.inbox = .answer (.ok n) :: rest)
    (h1 : 1 ≤ s.regs.chunk.length) (h15 : s.regs.chunk.length ≤ 15) :
    step s = .next { s with
      inbox := rest
      phase := .reading (.ksEcho k) (.klRx s.regs.busr) s.regs.chunk.length
      calls := s.calls ++ [.read (.klRx s.regs.busr) s.regs.chunk.length]
      regs := { s.regs with
        kidx := k, kfinal := decide (k + 1 = s.regs.nch), acc := [], need := BitVec.ofNat 8 s.regs.chunk.length } } :=
  (step_write hl hc hp hi).trans (congrArg _ (rdexactStart_of_pos h1 (h15.trans (by decide))))

/-- RDEXACT with all of its bytes in hand goes on in its caller (R197). -/
theorem rdexactGot_of_need {point : ReadPoint} {ep : ReadEndpoint} {done : State → State} {bytes : Bytes} {s : State}
    (h : s.regs.need = BitVec.ofNat 8 bytes.length) :
    rdexactGot point ep done bytes s = done (s.mapRegs fun r => { r with acc := r.acc ++ bytes, need := 0 }) := by
  have none_left : s.regs.need - BitVec.ofNat 8 bytes.length = 0 := by rw [h, BitVec.sub_self]; rfl
  simp only [rdexactGot, rdexactLoop, State.mapRegs, none_left, if_true]

/-- The last bytes of an echo that is the chunk as sent: they are consumed, nothing is logged, and the next chunk follows
(R197, R198). -/
theorem step_trueEcho {k n : Nat} {ep : ReadEndpoint} {bytes : Bytes} {rest : List Event} {s : State} (hl : s.latch = none)
    (hc : s.conn = .connected) (hp : s.phase = .reading (.ksEcho k) ep bytes.length) (hi : s.inbox = .answer (.ok n) :: rest)
    (hb : (s.inbound.waiting ep).take n = bytes) (hn : s.regs.need = BitVec.ofNat 8 bytes.length)
    (he : s.regs.acc ++ bytes = s.regs.chunk) :
    step s = .next (chunkFrom (k + 1) ((State.consume { s with inbox := rest } ep n).mapRegs fun r =>
      { r with acc := r.chunk, need := 0, echo := r.chunk })) := by
  have delivered := step_read_ok hl hc hp hi (by rw [hb])
  rw [hb] at delivered
  have got := rdexactGot_of_need (point := .ksEcho k) (ep := ep) (done := echoDone k) (bytes := bytes)
    (s := State.consume { s with inbox := rest } ep n) hn
  rw [delivered, deliver, got]
  refine congrArg _ ((if_pos he).trans ?_)
  simp only [State.mapRegs, consume_regs, he]

/-- The events of one chunk: its write is answered, its echo arrives as sent, and the read of the echo is answered. -/
def echoedChunk (b : Byte) (w : Nat) (c : Bytes) : List Event :=
  [.answer (.ok w), .arrive (.klRx b) c, .answer (.ok c.length)]

/-- The calls of one chunk (R86, R179, R196). -/
def chunkCalls (b : Byte) (c : Bytes) : List Call := [.write .klTx (b :: c), .read (.klRx b) c.length]

/-- The state when chunk `k` has been echoed as sent: two calls more, the inbound sides as they were. -/
def State.chunkEchoed (s : State) (k : Nat) (c : Bytes) : State :=
  { s with
    phase := .reading (.ksEcho k) (.klRx s.regs.busr) c.length
    calls := s.calls ++ chunkCalls s.regs.busr c
    regs := { s.regs with
      kidx := k, chunk := c, kfinal := decide (k + 1 = s.regs.nch), acc := c, need := 0, echo := c } }

/-- The whole echo arrives as sent and is read at once: two steps to the next chunk. -/
theorem run_trueEcho {k j : Nat} {ep : ReadEndpoint} {rest : List Event} {s : State} (hl : s.latch = none)
    (hc : s.conn = .connected) (hp : s.phase = .reading (.ksEcho k) ep s.regs.chunk.length) (hw : s.inbound.wf = true)
    (hq : s.inbound.waiting ep = [])
    (hi : s.inbox = .arrive ep s.regs.chunk :: .answer (.ok s.regs.chunk.length) :: rest) (ha : s.regs.acc = [])
    (hn : s.regs.need = BitVec.ofNat 8 s.regs.chunk.length) :
    Host.Core.run core (j + 2) s = Host.Core.run core j (chunkFrom (k + 1) { s with
      inbox := rest, regs := { s.regs with acc := s.regs.chunk, need := 0, echo := s.regs.chunk } }) := by
  obtain ⟨brought, restored⟩ := arrived_then_read hw hq s.regs.chunk
  have echoed := step_trueEcho
    (s := State.arrive { s with inbox := .answer (.ok s.regs.chunk.length) :: rest } ep s.regs.chunk)
    hl hc hp rfl brought hn (by rw [arrive_regs, ha, List.nil_append])
  refine (run_succ (step_event hl hi)).trans ((run_succ echoed).trans ?_)
  exact congrArg (fun m => Host.Core.run core j (chunkFrom (k + 1) { s with
    inbox := rest, inbound := m
    regs := { s.regs with acc := s.regs.chunk, need := 0, echo := s.regs.chunk } })) restored

/-- One turn of the chunk loop with a true echo: three steps. -/
theorem run_echoedChunk {w k j : Nat} {rest : List Event} {s : State} (hk : k < s.regs.nch)
    (hn : s.regs.nch = chunkCount s.regs.kbuf.length) (hl : s.latch = none) (hc : s.conn = .connected)
    (hw : s.inbound.wf = true) (hq : s.inbound.waiting (.klRx s.regs.busr) = [])
    (hi : s.inbox = echoedChunk s.regs.busr w (chunkAt s.regs.kbuf k) ++ rest) :
    Host.Core.run core (j + 3) (chunkFrom k s) = Host.Core.run core j
      (chunkFrom (k + 1) (State.chunkEchoed { s with inbox := rest } k (chunkAt s.regs.kbuf k))) := by
  obtain ⟨h1, h15⟩ := chunkAt_length (hn ▸ hk)
  rw [chunkFrom_of_lt hk, State.chunkEchoed, chunkCalls, List.append_cons]
  have asked := step_chunk_ok (s := writeChunk k s.regs.busr (chunkAt s.regs.kbuf k) s) hl hc rfl hi h1 h15
  exact (run_succ asked).trans (run_trueEcho hl hc rfl hw hq rfl rfl rfl)

/-- With every chunk echoed as sent the chunk loop sends the chunks from `k` on, two calls each, logs nothing and ends OK. -/
theorem run_chunkFrom {w k n : Nat} {rest : List Event} {s : State} (hkn : s.regs.nch = k + n)
    (hn : s.regs.nch = chunkCount s.regs.kbuf.length) (hl : s.latch = none) (hc : s.conn = .connected)
    (hw : s.inbound.wf = true) (hq : s.inbound.waiting (.klRx s.regs.busr) = [])
    (hi : s.inbox = ((List.range' k n).map (chunkAt s.regs.kbuf)).flatMap (echoedChunk s.regs.busr w) ++ rest) :
    ∃ r : Regs, Host.Core.run core (3 * n) (chunkFrom k s) = .next (finish .nothing { s with
      inbox := rest
      calls := s.calls ++ ((List.range' k n).map (chunkAt s.regs.kbuf)).flatMap (chunkCalls s.regs.busr)
      regs := r }) := by
  induction n generalizing k s with
  | zero =>
    obtain rfl : s.inbox = rest := hi
    have ended : chunkFrom k s = finish .nothing { s with calls := s.calls ++ [] } := by
      rw [chunkFrom_of_le (k := k) (Nat.le_of_eq hkn), List.append_nil]
    exact ⟨s.regs, congrArg _ ended⟩
  | succ n ih =>
    rw [List.range'_succ, List.map_cons, List.flatMap_cons, List.append_assoc] at hi
    rw [List.range'_succ, List.map_cons, List.flatMap_cons, ← List.append_assoc]
    have turn := run_echoedChunk (j := 3 * n) (by omega) hn hl hc hw hq hi
    refine Exists.imp (fun r => turn.trans) (ih ?_ ?_ ?_ ?_ ?_ ?_ ?_)
    exacts [hkn.trans (by omega), hn, hl, hc, hw, hq, rfl]

theorem length_flatMap_echoedChunk (b : Byte) (w : Nat) (cs : List Bytes) :
    (cs.flatMap (echoedChunk b w)).length = 3 * cs.length := by
  simp [List.length_flatMap, echoedChunk, Nat.mul_comm]

/-- From a drain with nothing to discard to the end of KSEND, every chunk echoed as sent. -/
theorem run_silent_drain {d w max : Nat} {b : Byte} {buf : Bytes} {rest : List Event} {s : State}
    (hbuf : Spec.kbuf s.regs.kmsg s.regs.csen = buf) (hb : s.regs.busr = b) (hl : s.latch = none)
    (hc : s.conn = .connected) (hp : s.phase = .reading .ksDrain (.klRx b) max) (hw : s.inbound.wf = true)
    (hq : s.inbound.waiting (.klRx b) = [])
    (hi : s.inbox = .answer (.ok d) :: ((Spec.chunks buf).flatMap (echoedChunk b w) ++ rest)) :
    ∃ r : Regs, Host.Core.run core (((Spec.chunks buf).flatMap (echoedChunk b w)).length + 1) s =
      .next (finish .nothing { s with
        inbox := rest, calls := s.calls ++ (Spec.chunks buf).flatMap (chunkCalls b), regs := r }) := by
  subst hb hbuf
  have drained := step_drain_silent hl hc hp hi hw hq
  rw [length_flatMap_echoedChunk]
  rw [Spec.chunks, List.range_eq_range'] at drained ⊢
  rw [List.length_map, List.length_range']
  refine Exists.imp (fun r => (run_succ drained).trans) (run_chunkFrom (w := w) ?_ ?_ ?_ ?_ ?_ ?_ ?_)
  exacts [(Nat.zero_add _).symm, rfl, hl, hc, hw, hq, rfl]

/-! ### The statements -/

/-- Settles O27: KDRAIN is KSEND's first step, after the capture. -/
theorem ksendBeginsWithTheDrain : Obligations.KsendBeginsWithTheDrain :=
  ⟨fun _ _ _ _ hw => exec_ksend hw, fun _ _ => rfl⟩

/-- Settles O34: the chunk has 1 to 15 bytes, so KECHO's RDEXACT asks for them at once. -/
theorem chunkWriteIsFollowedByItsEcho : Obligations.ChunkWriteIsFollowedByItsEcho :=
  fun _ _ _ _ _ _ hl hc hp hi => step_chunk_ok hl hc hp hi

/-- Settles O28: the drain's step hands on to `drainGot`, and the chunk loop at index 0 ends at once only with no chunk. -/
theorem drainEndsOnAnEmptyRead : Obligations.DrainEndsOnAnEmptyRead := by
  rintro n rest buf s hl hc hp hi rfl hm
  have answered := step_drain_ok hl hc hp hi hm
  refine ⟨_, _, rfl, rfl, fun stale => ?_, fun silent more => ?_, fun silent ended => ?_⟩
  · exact answered.trans (congrArg _ (drainGot_of_ne_nil stale (by exact hp)))
  · rw [answered, silent, drainGot_nil, chunkFrom_of_lt (Nat.pos_of_ne_zero (mt chunkCount_eq_zero_iff.1 more))]
    rfl
  · rw [answered, silent, drainGot_nil, chunkFrom_of_le (Nat.le_of_eq (chunkCount_eq_zero_iff.2 ended))]
    rfl

/-- Settles O32: the command's step, the drain's one read, then the chunk loop from index 0 on. -/
theorem ksendWithTrueEchoesSendsKbuf : Obligations.KsendWithTrueEchoesSendsKbuf := by
  rintro m b cs bytes d w evs rest s hwithin hp hl hc hw hq hd rfl hi
  refine ⟨flatten_chunks _, ?_⟩
  have taken := (step_command hl hp hi hd).trans (exec_ksend hwithin)
  obtain ⟨r, sent⟩ := run_silent_drain (d := d) (w := w) (b := b) (buf := Spec.kbuf m cs) (rest := rest)
    (s := beginDrain b (State.mapRegs { s with inbox := _ } fun r => { r with kmsg := m, csen := cs }))
    rfl rfl hl hc rfl hw hq rfl
  refine ⟨_, (run_succ taken).trans sent, rfl, rfl, ?_, rfl, rfl, rfl, rfl, rfl, fun _ => rfl⟩
  exact (List.append_cons ..).symm

end Sys2Proof.Machine
end

section
/-! SUPPORT. KECHO and RDEXACT (44_kline_echo_verifier.md R196 to R199; 45_serial_framer.md R214): the first read, the reads
for what is still needed, and the way on of a whole echo, true or false. -/

namespace Sys2Proof.Machine

/-! ### The reads of RDEXACT -/

/-- RDEXACT of a byte count other than 0 asks for that many (R197). -/
theorem rdexactStart_of_ne_zero {point : ReadPoint} {ep : ReadEndpoint} {n : Byte} {done : State → State} {s : State}
    (hn : n ≠ 0) : rdexactStart point ep n done s =
      issueRead point ep n.toNat (s.mapRegs fun r => { r with acc := [], need := n }) := if_neg hn

/-- An answer that brings fewer bytes than are needed leaves the difference to be asked for (R197, decision D16). -/
theorem rdexactGot_of_lt {point : ReadPoint} {ep : ReadEndpoint} {done : State → State} {bytes : Bytes} {s : State}
    (h : bytes.length < s.regs.need.toNat) :
    ∃ left : Byte, left.toNat = s.regs.need.toNat - bytes.length ∧
      rdexactGot point ep done bytes s =
        issueRead point ep left.toNat (s.mapRegs fun r => { r with acc := r.acc ++ bytes, need := left }) := by
  have left : bytes.length + (s.regs.need - BitVec.ofNat 8 bytes.length).toNat = s.regs.need.toNat :=
    rdexact_progress (acc := []) (Nat.zero_add _) h.le
  have some_left : s.regs.need - BitVec.ofNat 8 bytes.length ≠ 0 := fun h0 => by
    rw [h0] at left
    exact h.ne left
  exact ⟨_, Nat.eq_sub_of_add_eq' left, if_neg some_left⟩

/-- At RDEXACT's suspension points the bytes of an answer go to its loop. -/
theorem deliver_rdexact {p : ReadPoint} (h : (∃ k, p = .ksEcho k) ∨ p = .krHdr ∨ p = .krBody) :
    ∃ done, ∀ ep bytes s, deliver p ep bytes s = rdexactGot p ep done bytes s := by
  obtain ⟨k, rfl⟩ | rfl | rfl := h
  · exact ⟨echoDone k, fun _ _ _ => rfl⟩
  · exact ⟨headerDone, fun _ _ _ => rfl⟩
  · exact ⟨bodyDone, fun _ _ _ => rfl⟩

/-! ### A whole echo -/

/-- `fatal(ECHO_POLICY, final)` as the table of R199 has it. -/
theorem echoFatal_iff {policy : EchoPolicy} {final : Bool} :
    echoFatal policy final = true ↔ policy = .alwaysFatal ∨ (policy = .source ∧ final = true) := by
  cases policy with
  | source => simp [echoFatal]
  | alwaysFatal => simp [echoFatal]
  | alwaysLogged => simp [echoFatal]

theorem echoDone_of_fatal {k : Nat} {s : State} (hne : s.regs.acc ≠ s.regs.chunk)
    (hf : echoFatal s.cfg.echoPolicy s.regs.kfinal = true) :
    echoDone k s = raiseError .protocolError (s.mapRegs fun r => { r with echo := r.acc }) :=
  (if_neg hne).trans (if_pos hf)

theorem echoDone_of_not_fatal {k : Nat} {s : State} (hne : s.regs.acc ≠ s.regs.chunk)
    (hf : ¬ echoFatal s.cfg.echoPolicy s.regs.kfinal = true) :
    echoDone k s = chunkFrom (k + 1)
      (logEvent ⟨k, s.regs.chunk, s.regs.acc⟩ (s.mapRegs fun r => { r with echo := r.acc })) :=
  (if_neg hne).trans (if_neg hf)

/-- The last bytes of an echo, whatever they are: they are consumed, and the echo is compared (R196). -/
theorem step_wholeEcho {k n : Nat} {ep : ReadEndpoint} {bytes : Bytes} {rest : List Event} {s : State}
    (hl : s.latch = none) (hc : s.conn = .connected) (hp : s.phase = .reading (.ksEcho k) ep s.regs.need.toNat)
    (hi : s.inbox = .answer (.ok n) :: rest) (hb : bytes = (s.inbound.waiting ep).take n)
    (hn : bytes.length = s.regs.need.toNat) :
    step s = .next (echoDone k ((State.consume { s with inbox := rest } ep n).mapRegs fun r =>
      { r with acc := r.acc ++ bytes, need := 0 })) := by
  subst hb
  rw [step_read_ok hl hc hp hi hn.le]
  exact congrArg _ (rdexactGot_of_need (eq_ofNat_of_toNat_eq hn.symm))

/-! ### The statements -/

/-- Settles O33: a chunk of 1 to 15 bytes is a byte count other than 0. -/
theorem kechoAsksForTheChunkLength : Obligations.KechoAsksForTheChunkLength :=
  fun _ _ _ _ _ h1 h15 => congrArg _ (rdexactStart_of_pos h1 (h15.trans (by decide)))

/-- Settles O35: each caller has its own suspension point, and without bytes to collect the remainder is done at once. -/
theorem rdexactAsksForAllItNeeds : Obligations.RdexactAsksForAllItNeeds := by
  refine ⟨fun ep n c s _ hn => ⟨callerPoint c s.regs, ?_, congrArg _ (rdexactStart_of_ne_zero hn)⟩, fun _ _ => rfl⟩
  cases c with
  | echo => exact .inl ⟨rfl, rfl⟩
  | header => exact .inr (.inl ⟨rfl, rfl⟩)
  | body => exact .inr (.inr ⟨rfl, rfl⟩)

/-- Settles O36: all three suspension points hand the bytes to RDEXACT's loop, which has some left to ask for. -/
theorem rdexactAsksAgainForTheRest : Obligations.RdexactAsksAgainForTheRest := by
  rintro p ep n rest got s hpoint hl hc hp hi rfl hlt
  obtain ⟨done, delivered⟩ := deliver_rdexact hpoint
  obtain ⟨left, hleft, asked⟩ := rdexactGot_of_lt (point := p) (ep := ep) (done := done)
    (s := State.consume { s with inbox := rest } ep n) hlt
  refine ⟨left, hleft, ?_⟩
  rw [step_read_ok hl hc hp hi hlt.le, delivered, asked]
  rfl

/-- Settles O37: a true echo leads back into the chunk loop, which sends the next chunk or ends. -/
theorem trueEchoGoesOn : Obligations.TrueEchoGoesOn := by
  rintro k ep n rest got s hl hc hp hi hgot hn he
  have echoed := step_trueEcho hl hc (hn ▸ hp) hi hgot.symm (eq_ofNat_of_toNat_eq hn.symm) he
  rw [he]
  refine ⟨_, _, rfl, rfl, fun last => ?_, fun more => ?_⟩
  · exact echoed.trans (congrArg _ (chunkFrom_of_le last))
  · exact echoed.trans (congrArg _ (chunkFrom_of_lt more))

/-- Settles O38: the policy decides between the error and the log entry, after which the chunk loop goes on or ends. -/
theorem falseEchoFollowsThePolicy : Obligations.FalseEchoFollowsThePolicy := by
  rintro k ep n rest got s hl hc hp hi hgot hn hne
  have compared := step_wholeEcho hl hc hp hi hgot hn
  refine ⟨_, _, echoFatal s.cfg.echoPolicy s.regs.kfinal = true, rfl, rfl, echoFatal_iff,
    fun fatal => ?_, fun logged last => ?_, fun logged more => ?_⟩
  · exact compared.trans (congrArg _ (echoDone_of_fatal hne fatal))
  · exact compared.trans (congrArg _ (Eq.trans (echoDone_of_not_fatal hne logged) (chunkFrom_of_le last)))
  · exact compared.trans (congrArg _ (Eq.trans (echoDone_of_not_fatal hne logged) (chunkFrom_of_lt more)))

end Sys2Proof.Machine
end

section
/-! SUPPORT. KRECV (45_serial_framer.md R210 to R215): RDEXACT run over answers that cut its bytes up in any way, what the
header decides, and the run from the command to the message. -/

namespace Sys2Proof.Machine

/-! ### The inbound side over several reads -/

/-- Setting a side to what waits on it changes nothing. -/
theorem Memory.put_waiting {m : Memory} (hw : m.wf = true) (ep : ReadEndpoint) : m.put ep (m.waiting ep) = m := by
  refine Memory.eq_of_waiting_eq (Memory.put_wf _ _ hw) hw fun e => ?_
  by_cases he : e = ep
  · rw [he, Memory.waiting_put_same _ _ hw]
  · exact Memory.waiting_put_other _ he

/-- Of two settings of one side the last stands. -/
theorem Memory.put_put {m : Memory} (hw : m.wf = true) (ep : ReadEndpoint) (q q' : Bytes) :
    (m.put ep q).put ep q' = m.put ep q' := by
  have hw' := Memory.put_wf ep q hw
  refine Memory.eq_of_waiting_eq (Memory.put_wf _ _ hw') (Memory.put_wf _ _ hw) fun e => ?_
  by_cases he : e = ep
  · rw [he, Memory.waiting_put_same _ _ hw', Memory.waiting_put_same _ _ hw]
  · rw [Memory.waiting_put_other _ he, Memory.waiting_put_other _ he, Memory.waiting_put_other _ he]

/-! ### RDEXACT over all of its answers -/

/-- Answers that do not end with an empty one bring something, or there are none. -/
theorem eq_nil_of_sum_eq_zero {ns : List Nat} (hs : ns.sum = 0) (hlast : ns.getLast? ≠ some 0) : ns = [] := by
  by_contra hne
  have last := List.getLast_mem hne
  rw [List.getLast?_eq_some_getLast hne] at hlast
  exact hlast (congrArg some (List.sum_eq_zero_iff.1 hs _ last))

/-- What stays of such answers after the first is such again. -/
theorem getLast?_ne_of_cons {n : Nat} {ns : List Nat} (h : (n :: ns).getLast? ≠ some 0) : ns.getLast? ≠ some 0 := by
  intro last
  exact h (by rw [List.getLast?_cons, last, Option.getD_some])

section
variable {p : ReadPoint} {ep : ReadEndpoint} {done : State → State} {n : Nat} {bytes more : Bytes} {rest : List Event}
  {s : State}

/-- The answer with the last bytes RDEXACT needs: they are consumed, and its caller goes on (R197). -/
theorem step_rdexact_whole (hd : deliver p ep = rdexactGot p ep done) (hl : s.latch = none) (hc : s.conn = .connected)
    (hp : s.phase = .reading p ep s.regs.need.toNat) (hi : s.inbox = .answer (.ok n) :: rest)
    (hb : (s.inbound.waiting ep).take n = bytes) (hn : bytes.length = s.regs.need.toNat) :
    step s = .next (done ((State.consume { s with inbox := rest } ep n).mapRegs fun r =>
      { r with acc := r.acc ++ bytes, need := 0 })) := by
  subst hb
  rw [step_read_ok hl hc hp hi hn.le, hd]
  exact congrArg _ (rdexactGot_of_need (eq_ofNat_of_toNat_eq hn.symm))

/-- An answer with fewer bytes: they are kept, and the rest is asked for at the same point (R197, decision D16). -/
theorem step_rdexact_part (hd : deliver p ep = rdexactGot p ep done) (hl : s.latch = none) (hc : s.conn = .connected)
    (hp : s.phase = .reading p ep s.regs.need.toNat) (hi : s.inbox = .answer (.ok n) :: rest)
    (hb : (s.inbound.waiting ep).take n = bytes) (hn : bytes.length < s.regs.need.toNat) :
    ∃ left : Byte, left.toNat = s.regs.need.toNat - bytes.length ∧
      step s = .next (issueRead p ep left.toNat ((State.consume { s with inbox := rest } ep n).mapRegs fun r =>
        { r with acc := r.acc ++ bytes, need := left })) := by
  subst hb
  rw [step_read_ok hl hc hp hi hn.le, hd]
  obtain ⟨left, hleft, asked⟩ := rdexactGot_of_lt (point := p) (ep := ep) (done := done)
    (s := State.consume { s with inbox := rest } ep n) hn
  exact ⟨left, hleft, congrArg _ asked⟩

/-- However answers that do not end with an empty one cut the needed bytes up, RDEXACT collects them in the order they
arrived, leaves what follows them waiting, and hands on to its caller (R197, R214). -/
theorem run_rdexact {ns : List Nat} (hd : deliver p ep = rdexactGot p ep done) (hl : s.latch = none)
    (hc : s.conn = .connected) (hp : s.phase = .reading p ep s.regs.need.toNat) (hw : s.inbound.wf = true)
    (hq : s.inbound.waiting ep = bytes ++ more) (hn : s.regs.need.toNat = ns.sum) (hb : bytes.length = ns.sum)
    (hpos : ns ≠ []) (hlast : ns.getLast? ≠ some 0)
    (hi : s.inbox = ns.map (fun n => .answer (.ok n)) ++ rest) :
    ∃ ph cs, Host.Core.run core ns.length s = .next (done { s with
      phase := ph
      inbox := rest
      inbound := s.inbound.put ep more
      calls := cs
      regs := { s.regs with acc := s.regs.acc ++ bytes, need := 0 } }) := by
  induction ns generalizing s bytes with
  | nil => exact absurd rfl hpos
  | cons n ns ih =>
    rw [List.sum_cons] at hn hb
    have len : (bytes.take n).length = n := List.length_take_of_le (by omega)
    have brought : (s.inbound.waiting ep).take n = bytes.take n := by
      rw [hq, List.take_append_of_le_length (by omega)]
    have stays : (s.inbound.waiting ep).drop n = bytes.drop n ++ more := by
      rw [hq, List.drop_append_of_le_length (by omega)]
    have hlast' := getLast?_ne_of_cons hlast
    by_cases last : ns.sum = 0
    · obtain rfl := eq_nil_of_sum_eq_zero last hlast'
      have whole := step_rdexact_whole hd hl hc hp hi brought (by omega)
      rw [List.take_of_length_le (by omega), State.consume, stays, List.drop_of_length_le (by omega)] at whole
      exact ⟨s.phase, s.calls, run_succ whole⟩
    · obtain ⟨left, hleft, part⟩ := step_rdexact_part hd hl hc hp hi brought (by omega)
      rw [State.consume, stays] at part
      have pieces : s.regs.acc ++ bytes.take n ++ bytes.drop n = s.regs.acc ++ bytes := by
        rw [List.append_assoc, List.take_append_drop]
      obtain ⟨ph, cs, collected⟩ := ih (bytes := bytes.drop n)
        (s := issueRead p ep left.toNat (State.mapRegs { s with
          inbox := ns.map (fun n => .answer (.ok n)) ++ rest
          inbound := s.inbound.put ep (bytes.drop n ++ more) } fun r =>
            { r with acc := r.acc ++ bytes.take n, need := left }))
        hl hc rfl (Memory.put_wf _ _ hw) (Memory.waiting_put_same _ _ hw) (hleft.trans (by omega))
        (by rw [List.length_drop]; omega) (by rintro rfl; exact last rfl) hlast' rfl
      refine ⟨ph, cs, (run_succ part).trans (collected.trans ?_)⟩
      simp only [issueRead, State.mapRegs, Memory.put_put hw, pieces]

end

/-! ### The header -/

theorem exec_krecv (b : Byte) (s : State) : exec (.krecv b) s = .next { s with
    phase := .reading .krHdr (.klRx b) 2
    calls := s.calls ++ [.read (.klRx b) 2]
    regs := { s.regs with busr := b, acc := [], need := 2 } } := rfl

section
variable {h l : Byte} {s : State}

/-- A length below 2 is FormatError (R212). -/
theorem headerDone_of_lt (ha : s.regs.acc = [h, l]) (hlen : l.toNat < 2) :
    headerDone s = raiseError .formatError (s.mapRegs fun r => { r with hdr := (h, l) }) := by
  obtain ⟨-, refused⟩ | ⟨legal, -⟩ := headerDone_cases s
  · rw [refused, State.mapRegs, State.mapRegs, ha]
    rfl
  · rw [ha] at legal
    exact absurd hlen (Nat.not_lt.2 legal)

/-- A legal length less 2 is the size of the remainder (R213), which RDEXACT collects (R214). -/
theorem headerDone_of_eq {k : Nat} (ha : s.regs.acc = [h, l]) (hlen : l.toNat = 2 + k) :
    headerDone s = rdexactStart .krBody (.klRx s.regs.busr) (BitVec.ofNat 8 k) bodyDone
      (s.mapRegs fun r => { r with hdr := (h, l), rem := BitVec.ofNat 8 k }) := by
  have remainder : l - 2 = BitVec.ofNat 8 k := by
    rw [eq_ofNat_of_toNat_eq hlen]
    exact (BitVec.ofNat_sub_ofNat_of_le _ _ (by decide) (Nat.le_add_right 2 k)).trans
      (by rw [Nat.add_sub_cancel_left])
  obtain ⟨illegal, -⟩ | ⟨-, begun⟩ := headerDone_cases s
  · rw [ha] at illegal
    exact absurd (hlen.symm.trans_lt illegal) (by omega)
  · rw [begun, State.mapRegs, State.mapRegs, ha, ← remainder]
    rfl

/-- A length of 2 ends KRECV with the header alone (R214, R215). -/
theorem headerDone_of_two (ha : s.regs.acc = [h, l]) (hlen : l.toNat = 2) :
    headerDone s = finish (.message [h, l]) (s.mapRegs fun r =>
      { r with hdr := (h, l), rem := 0, acc := [], need := 0, body := [] }) :=
  headerDone_of_eq (k := 0) ha hlen

/-- A greater length asks for the whole remainder in one read (R214, decision D16). -/
theorem headerDone_of_gt {k : Nat} (ha : s.regs.acc = [h, l]) (hlen : l.toNat = 2 + k) (hk : 1 ≤ k) :
    headerDone s = issueRead .krBody (.klRx s.regs.busr) k (s.mapRegs fun r =>
      { r with hdr := (h, l), rem := BitVec.ofNat 8 k, acc := [], need := BitVec.ofNat 8 k }) := by
  rw [headerDone_of_eq ha hlen, rdexactStart_of_pos hk (by omega)]
  rfl

/-! ### The remainder -/

/-- With the header in and a remainder that fits it, the answers for the remainder lead to the message (R213 to R215). -/
theorem run_headerDone {ks : List Nat} {body more : Bytes} {rest : List Event} (ha : s.regs.acc = [h, l])
    (hlen : l.toNat = 2 + body.length) (hl : s.latch = none) (hc : s.conn = .connected) (hw : s.inbound.wf = true)
    (hq : s.inbound.waiting (.klRx s.regs.busr) = body ++ more) (hsum : ks.sum = body.length)
    (hlast : ks.getLast? ≠ some 0) (hi : s.inbox = ks.map (fun n => .answer (.ok n)) ++ rest) :
    ∃ cs r, Host.Core.run core ks.length (headerDone s) = .next (finish (.message (h :: l :: body)) { s with
      inbox := rest
      inbound := s.inbound.put (.klRx s.regs.busr) more
      calls := cs
      regs := r }) := by
  by_cases empty : body = []
  · subst empty
    obtain rfl := eq_nil_of_sum_eq_zero hsum hlast
    have untouched : s.inbound.put (.klRx s.regs.busr) more = s.inbound := by
      rw [← List.nil_append more, ← hq, Memory.put_waiting hw]
    obtain rfl : s.inbox = rest := hi
    rw [headerDone_of_two ha hlen, untouched]
    exact ⟨s.calls, _, rfl⟩
  · have pos : 1 ≤ body.length := List.length_pos_iff.2 empty
    have need : (BitVec.ofNat 8 body.length).toNat = body.length :=
      BitVec.toNat_ofNat .. |>.trans (Nat.mod_eq_of_lt (by omega))
    rw [headerDone_of_gt ha hlen pos]
    obtain ⟨_, cs, collected⟩ := run_rdexact (p := .krBody) (done := bodyDone) (bytes := body) (more := more)
      (s := issueRead .krBody (.klRx s.regs.busr) body.length (s.mapRegs fun r =>
        { r with hdr := (h, l), rem := BitVec.ofNat 8 body.length, acc := [], need := BitVec.ofNat 8 body.length }))
      rfl hl hc (congrArg _ need.symm) hw hq (need.trans hsum.symm) hsum.symm
      (by rintro rfl; exact (Nat.ne_of_lt pos) hsum) hlast hi
    exact ⟨cs, _, collected⟩

end

/-! ### The statements -/

/-- Settles O40: KRECV's RDEXACT has the two header bytes to collect. -/
theorem krecvAsksForTheHeader : Obligations.KrecvAsksForTheHeader := exec_krecv

/-- Settles O41: the answer with the last header byte hands on to `headerDone`, which the second byte decides. -/
theorem headerDecidesTheRemainder : Obligations.HeaderDecidesTheRemainder := by
  rintro h l n ep rest got s hl hc hp hi hgot hn hacc
  have whole := step_rdexact_whole (done := headerDone) rfl hl hc hp hi hgot.symm hn
  rw [State.mapRegs, consume_regs, hacc] at whole
  refine ⟨_, _, rfl, rfl, fun short => ?_, fun two => ?_, fun long => ?_⟩
  · exact whole.trans (congrArg _ (headerDone_of_lt rfl short))
  · exact whole.trans (congrArg _ (headerDone_of_two rfl two))
  · exact whole.trans (congrArg _ (headerDone_of_gt rfl (by omega) (by omega)))

/-- Settles O43: the command's step, RDEXACT over the header's answers, then over the remainder's. -/
theorem krecvDeliversTheWholeMessage : Obligations.KrecvDeliversTheWholeMessage := by
  rintro b h l body more bytes hs ks rest s hl hc hp hw hd hq hlen hsum hlast ksum klast hi
  have taken := (step_command hl hp hi hd).trans (exec_krecv b _)
  obtain ⟨ph, cs, header⟩ := run_rdexact (p := .krHdr) (done := headerDone) (ns := hs) (bytes := [h, l])
    (more := body ++ more) (rest := ks.map (fun n => .answer (.ok n)) ++ rest)
    (s := { s with
      inbox := (hs ++ ks).map (fun n => .answer (.ok n)) ++ rest
      phase := .reading .krHdr (.klRx b) 2
      calls := s.calls ++ [.read (.klRx b) 2]
      regs := { s.regs with busr := b, acc := [], need := 2 } })
    rfl hl hc rfl hw hq hsum.symm hsum.symm (by rintro rfl; cases hsum) hlast
    (by rw [List.map_append, List.append_assoc])
  obtain ⟨cs', r, message⟩ := run_headerDone (h := h) (l := l) (body := body) (more := more) (ks := ks) (rest := rest)
    (s := { s with
      phase := ph
      inbox := ks.map (fun n => .answer (.ok n)) ++ rest
      inbound := s.inbound.put (.klRx b) (body ++ more)
      calls := cs
      regs := { s.regs with busr := b, acc := [h, l], need := 0 } })
    rfl hlen hl hc (Memory.put_wf _ _ hw) (Memory.waiting_put_same _ _ hw) ksum klast rfl
  have begun := run_succ (k := hs.length) taken
  rw [Nat.add_comm] at begun
  refine ⟨_, (run_add (begun.trans header)).trans message, rfl, rfl, rfl, ?_, fun e he => ?_⟩
  · exact Memory.waiting_put_same _ _ (Memory.put_wf _ _ hw)
  · exact (Memory.waiting_put_other _ he).trans (Memory.waiting_put_other _ he)

end Sys2Proof.Machine
end

section
/-! SUPPORT. What the block refuses before it takes a step (60_exceptions.md R234; decisions D4, D24, D25): a command while an
operation is in progress, an address out of range behind a selector, an answer longer than its request, and an operand past a
bounded limit (log entry 18). -/

namespace Sys2Proof

theorem bind_of_error {α β : Type} {x : Except Reject α} {e : Reject} (f : α → Except Reject β) (h : x = .error e) :
    (x >>= f) = .error e := by
  rw [h]
  rfl

/-! ### An address of 2^29 or more -/

/-- Decision D4: such a word is no `address` operand, whatever follows it. -/
theorem takeAddress_of_ge {w : Nat} (hw : 2 ^ 29 ≤ w) (hw' : w < 2 ^ 32) (more : Bytes) :
    takeAddress (Spec.leBytes 4 w ++ more) = .error .addressOutOfRange := by
  have word : (BitVec.ofNat 32 w).toNat = w := Nat.mod_eq_of_lt hw'
  rw [← word, Machine.leBytes_four, takeAddress, bind_of_ok _ (takeWord_le32 _ _)]
  exact if_neg (by rw [word]; exact Nat.not_lt.2 hw)

/-- So no frame begins with it. -/
theorem takeTxFrame_of_ge {w : Nat} (hw : 2 ^ 29 ≤ w) (hw' : w < 2 ^ 32) (more : Bytes) :
    takeTxFrame (Spec.leBytes 4 w ++ more) = .error .addressOutOfRange :=
  bind_of_error _ (takeAddress_of_ge hw hw' more)

/-- A marked sequence is no list of items when one of its items is none: those before it are read, and its own error is the
answer. -/
theorem takeMany_of_item_error {α : Type} {item : Bytes → Except Reject (α × Bytes)} {lay : α → Bytes} {bad : Bytes}
    {e : Reject} (hitem : ∀ a rest, item (lay a ++ rest) = .ok (a, rest)) (hbad : item bad = .error e) {as : List α}
    {fuel : Nat} (hfuel : as.length < fuel) :
    takeMany item fuel (as.flatMap (fun a => 0x01 :: lay a) ++ 0x01 :: bad) = .error e := by
  induction as generalizing fuel with
  | nil =>
    obtain ⟨fuel, rfl⟩ := Nat.exists_eq_add_of_lt hfuel
    exact bind_of_error _ hbad
  | cons a as ih =>
    obtain ⟨fuel, rfl⟩ := Nat.exists_eq_add_of_lt hfuel
    rw [List.flatMap_cons, List.cons_append, List.cons_append, List.append_assoc]
    refine (bind_of_ok _ (hitem a _)).trans ?_
    exact bind_of_error _ (ih (by simp only [List.length_cons]; omega))

theorem length_le_flatMap_marked {α : Type} (lay : α → Bytes) (as : List α) :
    as.length ≤ (as.flatMap (fun a => 0x01 :: lay a)).length := by
  induction as with
  | nil => exact Nat.le_refl 0
  | cons a as ih =>
    simp only [List.flatMap_cons, List.length_append, List.length_cons]
    omega

theorem decode_cmd_encode_of_ge {w : Nat} (hw : 2 ^ 29 ≤ w) (hw' : w < 2 ^ 32) (more : Bytes) :
    decode .cmd (0x01 :: (Spec.leBytes 4 w ++ more)) = .error .addressOutOfRange :=
  (bind_of_ok _ (takeNibble_setWidth 0x1 _)).trans (bind_of_error _ (takeTxFrame_of_ge hw hw' more))

/-- The frames before the bad one are read, whatever follows its address. -/
theorem decode_cmd_sendmany_of_ge {w : Nat} (hw : 2 ^ 29 ≤ w) (hw' : w < 2 ^ 32) (fs : List TxFrame) (more : Bytes) :
    decode .cmd (0x03 :: (fs.flatMap (fun f => 0x01 :: encodeTxFrame f) ++ 0x01 :: (Spec.leBytes 4 w ++ more))) =
      .error .addressOutOfRange := by
  have markers := length_le_flatMap_marked encodeTxFrame fs
  refine (bind_of_ok _ (takeNibble_setWidth 0x3 _)).trans ?_
  refine bind_of_error _ (takeMany_of_item_error takeTxFrame_encodeTxFrame (takeTxFrame_of_ge hw hw' more) ?_)
  rw [List.length_append, List.length_cons]
  omega

end Sys2Proof

namespace Sys2Proof.Machine

/-! ### Commands and answers -/

/-- A command whose bytes are no instruction is refused by the decoder's own name for it. -/
theorem step_undecodable {s : State} {bytes : Bytes} {why : Reject} {rest : List Event} (hl : s.latch = none)
    (hp : s.phase = .idle) (hi : s.inbox = .command bytes :: rest) (hd : decode .cmd bytes = .error why) :
    step s = .refused (.undecodable why) := by
  rw [step_event hl hi, handleEvent, takeCommand_idle (s := { s with inbox := rest }) hp]
  simp only [runBytes, hd]

/-- A block with an operation in progress takes no command (decision D24). -/
theorem takeCommand_busy {s : State} (hp : s.phase ≠ .idle) (bytes : Bytes) : takeCommand bytes s = .refused .busy := by
  unfold takeCommand
  split
  next h => exact absurd h hp
  next => rfl
  next => rfl

/-- An answer of more bytes than were asked for is refused with both numbers (20_memory.md R69, decision D25). -/
theorem step_read_overlong {s : State} {n : Nat} {rest : List Event} {p : ReadPoint} {ep : ReadEndpoint} {max : Nat}
    (hl : s.latch = none) (hc : s.conn = .connected) (hp : s.phase = .reading p ep max)
    (hi : s.inbox = .answer (.ok n) :: rest) (hm : max < ((s.inbound.waiting ep).take n).length) :
    step s = .refused (.overlongAnswer max ((s.inbound.waiting ep).take n).length) := by
  rw [step_read hl hc hp hi]
  exact if_pos hm

/-! ### Operands past a bounded limit -/

theorem withinLimit_some_of_lt {m n : Nat} (h : m < n) : withinLimit (some m) n = false :=
  decide_eq_false (Nat.not_le.2 h)

theorem exec_sendmany_of_tooMany {fs : List TxFrame} {m : Nat} {s : State} (hb : s.cfg.txFramesMax = some m)
    (h : m < fs.length) : exec (.sendmany fs) s = .refused (.tooManyFrames m) := by
  simp only [exec, execSendmany, hb, withinLimit_some_of_lt h, Bool.false_eq_true, if_false, Option.getD_some]

theorem exec_ksend_of_tooLong {msg : Bytes} {m : Nat} {s : State} (b : Byte) (cs : Bool) (hb : s.cfg.ksendMax = some m)
    (h : m < msg.length) : exec (.ksend msg b cs) s = .refused (.messageTooLong m) := by
  simp only [exec, execKsend, hb, withinLimit_some_of_lt h, Bool.false_eq_true, if_false, Option.getD_some]

/-- Settles O46: the phase refuses the busy block's command, the decoder the two addresses, the request's size the answer, and
the limits their operands. -/
theorem refusedRequestsTakeNoStep : Obligations.RefusedRequestsTakeNoStep := by
  refine ⟨?busy, ?encode, ?sendmany, ?overlong, ?tooMany, ?tooLong⟩
  case busy =>
    intro bytes rest s hl hp hi
    exact (step_event hl hi).trans (takeCommand_busy (s := { s with inbox := rest }) hp bytes)
  case encode =>
    intro w more rest s hw hw' hl hp hi
    exact step_undecodable hl hp hi (decode_cmd_encode_of_ge hw hw' more)
  case sendmany =>
    intro fs w more rest s hw hw' hl hp hi
    exact step_undecodable hl hp hi (decode_cmd_sendmany_of_ge hw hw' fs more)
  case overlong =>
    intro p ep max n rest s hl hc hp hi hm
    exact step_read_overlong hl hc hp hi hm
  case tooMany =>
    intro fs m s hb h
    exact exec_sendmany_of_tooMany hb h
  case tooLong =>
    intro msg b cs m s hb h
    exact exec_ksend_of_tooLong b cs hb h

end Sys2Proof.Machine
end

section
/-! SUPPORT. Reset and what comes after it (70_reset_and_hazards.md R260, R261; decision D26): the event in any state, and the
answer to a call that a reset has forgotten. -/

namespace Sys2Proof.Machine

/-- A reset event resets the block in any phase and leaves the events after it to come. -/
theorem step_reset_event {s : State} {rest : List Event} (hl : s.latch = none) (hi : s.inbox = .reset :: rest) :
    step s = .next (resetBlock { s with inbox := rest }) := step_event hl hi

/-- With no call outstanding an answer is dropped. -/
theorem resume_idle {s : State} (hp : s.phase = .idle) (a : Answer) : resume a s = .next s := by
  simp only [resume, hp]

/-- Settles O55: the step is `resetBlock`, which keeps the channels, the inbound sides and the parameters, and a late answer
meets an idle block. -/
theorem resetAbandonsTheOperation : Obligations.ResetAbandonsTheOperation := by
  constructor
  · intro rest s hl hi
    exact ⟨_, step_reset_event hl hi, resetBlock_phase _, resetBlock_conn _, resetBlock_klog _, resetBlock_rsps _,
      resetBlock_calls _, resetBlock_logs _, resetBlock_inbound _, resetBlock_cfg _, resetBlock_inbox _,
      (resetBlock_latch _).trans hl⟩
  · intro a rest s hl hp hi
    exact (step_answer hl hi).trans (resume_idle (s := { s with inbox := rest }) hp a)

end Sys2Proof.Machine
end
